-- ==== Sys2Proof/Word.lean ====
section
/-!
DEFINITION. The word types: bytes of the command port and of the sample streams, the 64-bit
register word (00_scope.md R11), and the raw bits of a binary64 number, which a register of type
f64 holds (10_state.md, opening).
-/

namespace Sys2Proof

/-- One byte of the command port, of a PUSH payload or of OUT. -/
abbrev Byte := BitVec 8

/-- A register value or an operand word: 64 bits (R11). -/
abbrev Word := BitVec 64

/-- The raw bits of an IEEE 754 binary64 number (R14). -/
abbrev F64 := BitVec 64

end Sys2Proof
end

