-- ==== Sys2Proof/Syntax.lean ====
section
/-!
DEFINITION. The 39 commands of the core, one constructor per row of spec/opcode_table.json
(30_encoding.md R310 to R315). An operand is carried as its raw 64 bits: every pattern of an f64 or
u64 operand is accepted by the decoder (R302), and the command's own rule says which it rejects.
-/

namespace Sys2Proof

/-- The SUB field of STREAM_ERROR (40_control.md R404). -/
inductive StreamErrorKind where
  /-- kind 0, a premature close -/
  | prematureClose
  /-- kind 1, an I/O failure of the source -/
  | ioFailure
  deriving DecidableEq, Repr

/-- A command (R4: the core's instructions are the commands the host issues to it). -/
inductive Instr where
  -- UNIT 0, CTL (R310)
  | ctlNop
  | ctlCreate
  | ctlDestroy
  /-- the payload bytes; the operand's N is their number (R450) -/
  | ctlPush (payload : List Byte)
  | ctlEnd
  | ctlStreamError (kind : StreamErrorKind)
  | ctlReadReg (addr : BitVec 16)
  | ctlPopEvent
  | ctlAckErr
  | ctlSetBitdepth (v : Word)
  | ctlSetEndian (v : Word)
  | ctlSetRate (v : Word)
  | ctlSetChannels (v : Word)
  | ctlReset
  -- UNIT 1, BQ (R311)
  | bqSetType (v : Word)
  | bqSetFreq (v : F64)
  | bqSetQ (v : F64)
  | bqSetGain (v : F64)
  | bqEnable
  | bqDisable
  -- UNIT 2, CMP (R312)
  | cmpSetThreshold (v : F64)
  | cmpSetRatio (v : F64)
  | cmpSetAttack (v : F64)
  | cmpSetRelease (v : F64)
  | cmpSetMakeup (v : F64)
  | cmpSetKnee (v : F64)
  | cmpEnable
  | cmpDisable
  -- UNIT 3, RVB (R313)
  | rvbSetRoom (v : F64)
  | rvbSetDamping (v : F64)
  | rvbSetWet (v : F64)
  | rvbSetDry (v : F64)
  | rvbEnable
  | rvbDisable
  -- UNIT 4, VOL (R314)
  | volSetVolume (v : F64)
  | volEnable
  | volDisable
  -- UNIT 5, SEEK (R315)
  | seekSetDuration (v : F64)
  | seekSeek (v : F64)
  deriving DecidableEq, Repr

end Sys2Proof
end

