-- ==== Sys2Proof/WellFormed.lean ====
section
/-!
DEFINITION. Which terms of `Instr` the encoding can carry. Every field but one has exactly the width
of its place in the command; a PUSH payload's length is a 32-bit number (41_stream.md R450).
-/

namespace Sys2Proof

/-- The check: a PUSH payload is shorter than 2^32 bytes (R450, "0 ≤ N < 2^32"); every other command
is well formed as it stands. -/
def Instr.wf : Instr → Bool
  | .ctlPush payload => decide (payload.length < 2 ^ 32)
  | .ctlNop | .ctlCreate | .ctlDestroy | .ctlEnd | .ctlStreamError _ | .ctlReadReg _ | .ctlPopEvent
  | .ctlAckErr | .ctlSetBitdepth _ | .ctlSetEndian _ | .ctlSetRate _ | .ctlSetChannels _ | .ctlReset
  | .bqSetType _ | .bqSetFreq _ | .bqSetQ _ | .bqSetGain _ | .bqEnable | .bqDisable
  | .cmpSetThreshold _ | .cmpSetRatio _ | .cmpSetAttack _ | .cmpSetRelease _ | .cmpSetMakeup _
  | .cmpSetKnee _ | .cmpEnable | .cmpDisable
  | .rvbSetRoom _ | .rvbSetDamping _ | .rvbSetWet _ | .rvbSetDry _ | .rvbEnable | .rvbDisable
  | .volSetVolume _ | .volEnable | .volDisable | .seekSetDuration _ | .seekSeek _ => true

end Sys2Proof
end

