-- ==== Sys2Proof/Decode.lean ====
section
/-!
DEFINITION. The command port's bytes as commands (30_encoding.md): how many bytes a command takes,
the decoder with the check order of R322, the encoder written from the same tables, and the decoder
as the host asks for it.
-/

namespace Sys2Proof

/-! ### Numbers as bytes, least significant byte first (20_memory.md R204) -/

/-- The number whose bytes, least significant first, are `bs`. -/
def leNat : List Byte → Nat
  | [] => 0
  | b :: bs => b.toNat + 256 * leNat bs

/-- The `k` low bytes of `n`, least significant first. -/
def leBytes : Nat → Nat → List Byte
  | 0, _ => []
  | k + 1, n => BitVec.ofNat 8 n :: leBytes k (n / 256)

/-! ### A whole command on the port (R300, R304) -/

/-- A command as it stands on the port: command word, operand word, payload (of a PUSH; empty
otherwise). The pad bytes are ignored (R304) and not kept. -/
structure Command where
  cw : BitVec 32
  opnd : Word
  payload : List Byte
  deriving DecidableEq, Repr

/-- Whether the first 12 bytes announce a payload: CW[31:24] = 0x03 (R304). -/
def hasPayload (cw : BitVec 32) : Bool := cw.toNat / 2 ^ 24 == 3

/-- N, the number of payload bytes: OPND[31:0] for a PUSH, whatever OPND[63:32] holds (R304). -/
def payloadLength (cw : BitVec 32) (opnd : Word) : Nat :=
  if hasPayload cw then opnd.toNat % 2 ^ 32 else 0

/-- The number of pad bytes after `n` payload bytes (R304). -/
def padLength (n : Nat) : Nat := (4 - n % 4) % 4

/-- The first whole command of the port and the bytes after it; none while the port holds less than
a whole command (R1040: the core waits for the remaining bytes). -/
def takeCommand (bs : List Byte) : Option (Command × List Byte) :=
  if bs.length < 12 then none
  else
    let cw := BitVec.ofNat 32 (leNat (bs.take 4))
    let opnd := BitVec.ofNat 64 (leNat ((bs.drop 4).take 8))
    let n := payloadLength cw opnd
    let body := bs.drop 12
    if body.length < n + padLength n then none
    else some (⟨cw, opnd, body.take n⟩, body.drop (n + padLength n))

/-! ### The fields of the command word (R301) -/

/-- UNIT, CW[31:28]. -/
def cwUnit (cw : BitVec 32) : Nat := cw.toNat / 2 ^ 28

/-- OP, CW[27:24]. -/
def cwOp (cw : BitVec 32) : Nat := cw.toNat / 2 ^ 24 % 2 ^ 4

/-- SUB, CW[23:16]. -/
def cwSub (cw : BitVec 32) : Nat := cw.toNat / 2 ^ 16 % 2 ^ 8

/-- IMM16, CW[15:0]. -/
def cwImm (cw : BitVec 32) : Nat := cw.toNat % 2 ^ 16

/-! ### The opcode map (R310 to R315) -/

/-- The operand kinds of R302. -/
inductive OperandKind where
  | none
  | f64
  | u64
  | len
  deriving DecidableEq, Repr

/-- What the decoder allows of an operand of a kind (R302, R320): 0 for `none`, an upper half of 0 for
`len`, anything for `f64` and `u64`. -/
def operandAllowed (k : OperandKind) (opnd : Word) : Bool :=
  match k with
  | .none => opnd.toNat == 0
  | .len => opnd.toNat / 2 ^ 32 == 0
  | .f64 => true
  | .u64 => true

/-- One row of the opcode map: the operand kind, the largest SUB, whether IMM16 carries a register
address, and the command the row stands for. -/
structure OpcodeRow where
  kind : OperandKind
  maxSub : Nat
  immIsAddr : Bool
  build : Command → Instr

/-- A row whose SUB and IMM16 are 0. -/
def plainRow (kind : OperandKind) (build : Command → Instr) : OpcodeRow := ⟨kind, 0, false, build⟩

/-- UNIT 0, CTL (R310). -/
def ctlRow : Nat → Option OpcodeRow
  | 0 => some (plainRow .none fun _ => .ctlNop)
  | 1 => some (plainRow .none fun _ => .ctlCreate)
  | 2 => some (plainRow .none fun _ => .ctlDestroy)
  | 3 => some (plainRow .len fun c => .ctlPush c.payload)
  | 4 => some (plainRow .none fun _ => .ctlEnd)
  | 5 => some ⟨.none, 1, false, fun c =>
      .ctlStreamError (if cwSub c.cw = 0 then .prematureClose else .ioFailure)⟩
  | 6 => some ⟨.none, 0, true, fun c => .ctlReadReg (BitVec.ofNat 16 (cwImm c.cw))⟩
  | 7 => some (plainRow .none fun _ => .ctlPopEvent)
  | 8 => some (plainRow .none fun _ => .ctlAckErr)
  | 9 => some (plainRow .u64 fun c => .ctlSetBitdepth c.opnd)
  | 10 => some (plainRow .u64 fun c => .ctlSetEndian c.opnd)
  | 11 => some (plainRow .u64 fun c => .ctlSetRate c.opnd)
  | 12 => some (plainRow .u64 fun c => .ctlSetChannels c.opnd)
  | 13 => some (plainRow .none fun _ => .ctlReset)
  | _ => none

/-- UNIT 1, BQ (R311). -/
def bqRow : Nat → Option OpcodeRow
  | 0 => some (plainRow .u64 fun c => .bqSetType c.opnd)
  | 1 => some (plainRow .f64 fun c => .bqSetFreq c.opnd)
  | 2 => some (plainRow .f64 fun c => .bqSetQ c.opnd)
  | 3 => some (plainRow .f64 fun c => .bqSetGain c.opnd)
  | 4 => some (plainRow .none fun _ => .bqEnable)
  | 5 => some (plainRow .none fun _ => .bqDisable)
  | _ => none

/-- UNIT 2, CMP (R312). -/
def cmpRow : Nat → Option OpcodeRow
  | 0 => some (plainRow .f64 fun c => .cmpSetThreshold c.opnd)
  | 1 => some (plainRow .f64 fun c => .cmpSetRatio c.opnd)
  | 2 => some (plainRow .f64 fun c => .cmpSetAttack c.opnd)
  | 3 => some (plainRow .f64 fun c => .cmpSetRelease c.opnd)
  | 4 => some (plainRow .f64 fun c => .cmpSetMakeup c.opnd)
  | 5 => some (plainRow .f64 fun c => .cmpSetKnee c.opnd)
  | 6 => some (plainRow .none fun _ => .cmpEnable)
  | 7 => some (plainRow .none fun _ => .cmpDisable)
  | _ => none

/-- UNIT 3, RVB (R313). -/
def rvbRow : Nat → Option OpcodeRow
  | 0 => some (plainRow .f64 fun c => .rvbSetRoom c.opnd)
  | 1 => some (plainRow .f64 fun c => .rvbSetDamping c.opnd)
  | 2 => some (plainRow .f64 fun c => .rvbSetWet c.opnd)
  | 3 => some (plainRow .f64 fun c => .rvbSetDry c.opnd)
  | 4 => some (plainRow .none fun _ => .rvbEnable)
  | 5 => some (plainRow .none fun _ => .rvbDisable)
  | _ => none

/-- UNIT 4, VOL (R314). -/
def volRow : Nat → Option OpcodeRow
  | 0 => some (plainRow .f64 fun c => .volSetVolume c.opnd)
  | 1 => some (plainRow .none fun _ => .volEnable)
  | 2 => some (plainRow .none fun _ => .volDisable)
  | _ => none

/-- UNIT 5, SEEK (R315). -/
def seekRow : Nat → Option OpcodeRow
  | 0 => some (plainRow .f64 fun c => .seekSetDuration c.opnd)
  | 1 => some (plainRow .f64 fun c => .seekSeek c.opnd)
  | _ => none

/-- The rows of a unit; none for a reserved UNIT (R301). -/
def unitRows : Nat → Option (Nat → Option OpcodeRow)
  | 0 => some ctlRow
  | 1 => some bqRow
  | 2 => some cmpRow
  | 3 => some rvbRow
  | 4 => some volRow
  | 5 => some seekRow
  | _ => none

/-! ### The decoder (R320, R322) -/

/-- Why bytes are no command, by name. All but the first raise ILLEGAL_COMMAND (R320). -/
inductive DecodeError where
  /-- the port holds less than a whole command -/
  | incomplete
  /-- UNIT 6 to 15 -/
  | reservedUnit
  /-- an OP marked reserved -/
  | reservedOp
  /-- SUB not 0 outside STREAM_ERROR, or above 1 in it -/
  | badSub
  /-- IMM16 not 0 outside READ_REG -/
  | badImm
  /-- OPND not 0 for the kind none, or OPND[63:32] not 0 for PUSH -/
  | badOperand
  deriving DecidableEq, Repr

/-- Decodes a whole command, in the check order of R322: UNIT, OP, SUB, IMM16, operand kind. -/
def decodeCommand (c : Command) : Except DecodeError Instr :=
  match unitRows (cwUnit c.cw) with
  | none => .error .reservedUnit
  | some rows =>
    match rows (cwOp c.cw) with
    | none => .error .reservedOp
    | some r =>
      if r.maxSub < cwSub c.cw then .error .badSub
      else if r.immIsAddr = false ∧ cwImm c.cw ≠ 0 then .error .badImm
      else if operandAllowed r.kind c.opnd = false then .error .badOperand
      else .ok (r.build c)

/-- Decodes the first command of a byte sequence; total on any bytes. -/
def decode (bs : List Byte) : Except DecodeError (Instr × List Byte) :=
  match takeCommand bs with
  | none => .error .incomplete
  | some (c, rest) =>
    match decodeCommand c with
    | .error e => .error e
    | .ok i => .ok (i, rest)

/-! ### The encoder (R301, R310 to R316) -/

/-- A command word from its fields (R301). -/
def commandWord (unit op sub imm : Nat) : BitVec 32 :=
  BitVec.ofNat 32 (unit * 2 ^ 28 + op * 2 ^ 24 + sub * 2 ^ 16 + imm)

/-- A command with no payload. -/
def shortCommand (unit op : Nat) (opnd : Word) : Command := ⟨commandWord unit op 0 0, opnd, []⟩

/-- The SUB value of a stream-error kind (R404). -/
def StreamErrorKind.sub : StreamErrorKind → Nat
  | .prematureClose => 0
  | .ioFailure => 1

/-- The words of an instruction, row by row of R310 to R315. -/
def toCommand : Instr → Command
  | .ctlNop => shortCommand 0 0 0
  | .ctlCreate => shortCommand 0 1 0
  | .ctlDestroy => shortCommand 0 2 0
  | .ctlPush p => ⟨commandWord 0 3 0 0, BitVec.ofNat 64 p.length, p⟩
  | .ctlEnd => shortCommand 0 4 0
  | .ctlStreamError k => ⟨commandWord 0 5 k.sub 0, 0, []⟩
  | .ctlReadReg a => ⟨commandWord 0 6 0 a.toNat, 0, []⟩
  | .ctlPopEvent => shortCommand 0 7 0
  | .ctlAckErr => shortCommand 0 8 0
  | .ctlSetBitdepth v => shortCommand 0 9 v
  | .ctlSetEndian v => shortCommand 0 10 v
  | .ctlSetRate v => shortCommand 0 11 v
  | .ctlSetChannels v => shortCommand 0 12 v
  | .ctlReset => shortCommand 0 13 0
  | .bqSetType v => shortCommand 1 0 v
  | .bqSetFreq v => shortCommand 1 1 v
  | .bqSetQ v => shortCommand 1 2 v
  | .bqSetGain v => shortCommand 1 3 v
  | .bqEnable => shortCommand 1 4 0
  | .bqDisable => shortCommand 1 5 0
  | .cmpSetThreshold v => shortCommand 2 0 v
  | .cmpSetRatio v => shortCommand 2 1 v
  | .cmpSetAttack v => shortCommand 2 2 v
  | .cmpSetRelease v => shortCommand 2 3 v
  | .cmpSetMakeup v => shortCommand 2 4 v
  | .cmpSetKnee v => shortCommand 2 5 v
  | .cmpEnable => shortCommand 2 6 0
  | .cmpDisable => shortCommand 2 7 0
  | .rvbSetRoom v => shortCommand 3 0 v
  | .rvbSetDamping v => shortCommand 3 1 v
  | .rvbSetWet v => shortCommand 3 2 v
  | .rvbSetDry v => shortCommand 3 3 v
  | .rvbEnable => shortCommand 3 4 0
  | .rvbDisable => shortCommand 3 5 0
  | .volSetVolume v => shortCommand 4 0 v
  | .volEnable => shortCommand 4 1 0
  | .volDisable => shortCommand 4 2 0
  | .seekSetDuration v => shortCommand 5 0 v
  | .seekSeek v => shortCommand 5 1 v

/-- A command's bytes on the port: CW and OPND least significant byte first, the payload as it is,
the pad as zeros (R300, R304). -/
def commandBytes (c : Command) : List Byte :=
  leBytes 4 c.cw.toNat ++ leBytes 8 c.opnd.toNat ++ c.payload
    ++ List.replicate (padLength c.payload.length) 0

/-- The bytes of an instruction. -/
def encode (i : Instr) : List Byte := commandBytes (toCommand i)

/-! ### The decoder as the host asks for it -/

/-- The port bytes of an instruction whose bits are `w` (bit 0 the least significant bit of CW; the
bits from `nbits` up are 0): 12 bytes, and for a PUSH its payload and pad. -/
def tableBytes (nbits w : Nat) : List Byte :=
  let bits := w % 2 ^ nbits
  let cw := BitVec.ofNat 32 bits
  let opnd := BitVec.ofNat 64 (bits / 2 ^ 32)
  let n := payloadLength cw opnd
  leBytes 12 bits ++ leBytes (n + padLength n) (bits / 2 ^ 96)

/-- The instruction the decoder reads from an instruction whose bits are `w`, numbered as
spec/opcode_table.json numbers them. -/
def decodeTableWord (nbits w : Nat) : Option Instr :=
  match decode (tableBytes nbits w) with
  | .ok (i, _) => some i
  | .error _ => none

end Sys2Proof
end

