-- ==== Sys2Proof/Config.lean ====
section
/-!
DEFINITION. The implementation parameters of 00_scope.md R9 and the model's free values. A parameter
the spec marks OPEN is built from a constant with no body, so that no proof can see its value; its
legal range is all that is known of it. A parameter marked DECIDED has the value 92_eei_decisions.md
gives it.
-/

namespace Sys2Proof.Config

/-- Behind `nLines`: no body, so any number (OPEN, D28). -/
opaque nLinesRaw : Nat

/-- `N_LINES`, the number of RVB delay lines: any integer from 1 up (R9, R700). -/
def nLines : Nat := nLinesRaw + 1

/-- Behind `feedback`: no body (OPEN, D28). -/
opaque feedbackRaw : Nat

/-- `FB`, the RVB feedback coefficient: any binary64 with 0 ≤ FB < 1 (R9, I4). The patterns below
that of 1.0 are the values from +0.0 up to it; the one case left is −0.0, which compares equal
to 0. -/
def feedback : F64 :=
  let k := feedbackRaw % (0x3FF0000000000000 + 1)
  if k = 0x3FF0000000000000 then 0x8000000000000000#64 else BitVec.ofNat 64 k

/-- Behind `maxChannels`: no body (OPEN, D43). -/
opaque maxChannelsRaw : Nat

/-- `MAX_CHANNELS`, the largest accepted channel count: any of 1..4096 (R9). -/
def maxChannels : Nat := maxChannelsRaw % 4096 + 1

/-- Behind `maxRate`: no body (OPEN, D43). -/
opaque maxRateRaw : Nat

/-- `MAX_RATE`, the largest accepted sample rate: any integer from 20 up (R9). -/
def maxRate : Nat := maxRateRaw + 20

/-- `LIBM` (OPEN, D2): the six functions, total on binary64. `Machine/Libm.lean` puts the special
values of R16 over them. -/
opaque libmSin : F64 → F64
/-- `cos` of LIBM (R9). -/
opaque libmCos : F64 → F64
/-- `tan` of LIBM (R9). -/
opaque libmTan : F64 → F64
/-- `exp` of LIBM (R9). -/
opaque libmExp : F64 → F64
/-- `log10` of LIBM (R9). -/
opaque libmLog10 : F64 → F64
/-- `pow10` of LIBM (R9). -/
opaque libmPow10 : F64 → F64

/-- The two readings of the source's knee formula (R9, R612, 90_conflicts.md C1). -/
inductive KneeFormula where
  | continuous
  | literal
  deriving DecidableEq, Repr

/-- `KNEE_FORMULA`, DECIDED: CONTINUOUS (D24). -/
def kneeFormula : KneeFormula := .continuous

/-- `VOL_MAX`, DECIDED: the largest finite binary64 (D32). -/
def volMax : F64 := 0x7FEFFFFFFFFFFFFF#64

/-- `Q_BW`, DECIDED: the Butterworth Q (D20, R502). -/
def qBw : F64 := 0x3FE6A09E667F3BCD#64

/-- `ID`, the spec's own identification constant (R110). -/
def coreId : Word := 0x0000000044504331#64

/-- Behind `freeNan`: no body. -/
opaque nanSeed : Nat → BitVec 64

/-- A free NaN: any of the NaN patterns, the `n`-th one asked for (I12: a NaN made by arithmetic
has any payload). Every pattern whose exponent field is all ones and whose fraction is not 0 is
possible. -/
def freeNan (n : Nat) : F64 :=
  let v := nanSeed n ||| 0x7FF0000000000000#64
  if v.toNat % 2 ^ 52 = 0 then v ||| 0x0008000000000000#64 else v

/-- Behind `toF64Beyond`: no body. -/
opaque toF64Seed : Int → Nat

/-- A free value: `toF64` of an integer of magnitude above 2^53, for which R14 states no result. It is
any finite number of the integer's sign, and not 0: R511 has the sample rate's conversion finite and
above 0. -/
def toF64Beyond (i : Int) : F64 :=
  BitVec.ofNat 64 ((if i < 0 then 2 ^ 63 else 0) + (toF64Seed i % (2047 * 2 ^ 52 - 1) + 1))

end Sys2Proof.Config
end

