-- ==== Sys2Proof/Machine/State.lean ====
section
/-!
DEFINITION. The state of the core as plain data (10_state.md), why a step can stop, and the state
after reset (70_reset_and_hazards.md R1100). A register the spec gives as a function of other state,
never written otherwise (STATUS, EVQ_COUNT, BYTE_WIDTH, EXTREMUM, FRAME_BYTES, SK_LEFT_LEN), has no
field: the function that gives it stands in Flags.lean and Ops.lean.
-/

namespace Sys2Proof.Machine

/-! ### The closed sets of values -/

/-- PHASE (R103). -/
inductive Phase where
  | idle
  | active
  deriving DecidableEq, Repr

/-- The legal values of BITDEPTH (R111). -/
inductive BitDepth where
  | b16
  | b32
  deriving DecidableEq, Repr

/-- The legal values of ENDIAN (R112). -/
inductive Endian where
  | little
  | big
  deriving DecidableEq, Repr

/-- The filter types, codes 0 to 10 in this order (R501). -/
inductive FilterType where
  | none
  | lowpass
  | highpass
  | bandpass
  | notch
  | allpass
  | peakingEq
  | lowshelf
  | highshelf
  | singlePoleLowpass
  | singlePoleLowpassApprox
  deriving DecidableEq, Repr

/-- The error codes, 0 to 13 in this order (60_exceptions.md R1001). -/
inductive ErrCode where
  | ok
  | illegalCommand
  | badRegister
  | notActive
  | unsupportedFormat
  | badRate
  | badChannels
  | geometryLocked
  | badFilterType
  | badFrequency
  | badQ
  | badParam
  | badVolume
  | badDuration
  deriving DecidableEq, Repr

/-- An event record (R1010). -/
inductive Event where
  /-- kind 1: a register's address and its stored value -/
  | reconfig (addr : BitVec 16) (value : Word)
  /-- kind 2: resolved ms, target sample, byte position -/
  | seek (position : F64) (sample : Word) (bytePosition : Word)
  /-- kind 3: 1 = I/O failure of the source -/
  | error (code : Word)
  deriving DecidableEq, Repr

/-! ### Cell stores -/

/-- A store of f64 cells: the delay-line memory LINE (R142, R219) and the BQ history (R122). A list
of (address, value) pairs in one canonical form (`Memory.wf`): addresses strictly rising, and no
entry equal to +0.0, which is what an unlisted address reads as (R219, R410, R411: the cells are
zeroed to +0.0). -/
abbrev Memory := List (Nat × F64)

/-! ### The state -/

/-- The five normalised coefficients (R121). -/
structure Coeffs where
  b0 : F64
  b1 : F64
  b2 : F64
  a1 : F64
  a2 : F64
  deriving DecidableEq, Repr

/-- The geometry registers (R111 to R114). -/
structure Geometry where
  bitdepth : BitDepth
  endian : Endian
  rate : Word
  channels : Word
  deriving DecidableEq, Repr

/-- The BQ unit (R120 to R122). `hist` holds X1, X2, Y1, Y2 of channel c in the cells 4c to
4c + 3. -/
structure BqUnit where
  en : Bool
  type : FilterType
  freq : F64
  q : F64
  gain : F64
  coeffs : Coeffs
  hist : Memory
  deriving DecidableEq, Repr

/-- The CMP unit (R130 to R132). -/
structure CmpUnit where
  en : Bool
  threshold : F64
  ratio : F64
  attackMs : F64
  releaseMs : F64
  makeup : F64
  knee : F64
  attackC : F64
  releaseC : F64
  env : F64
  gr : F64
  deriving DecidableEq, Repr

/-- The RVB unit (R140 to R142). `line` holds LINE[i][j] in the cell i · lineLen + j. -/
structure RvbUnit where
  en : Bool
  room : F64
  damping : F64
  wet : F64
  dry : F64
  lineLen : Word
  cursor : Word
  line : Memory
  deriving DecidableEq, Repr

/-- The VOL unit (R145). -/
structure VolUnit where
  en : Bool
  volume : F64
  gain : F64
  deriving DecidableEq, Repr

/-- The SEEK unit (R150 to R153). `pend` is SK_PEND_VALID and SK_PEND together (R152,
"seekTargetSamples | null"). -/
structure SeekUnit where
  totalMs : F64
  pos : Word
  pend : Option Word
  left : List Byte
  deriving DecidableEq, Repr

/-- The whole machine (R100). The last two fields are the model's own, not the spec's. -/
structure State where
  phase : Phase
  lastErr : ErrCode
  errSticky : Bool
  evq : List Event
  res0 : Word
  res1 : Word
  res2 : Word
  res3 : Word
  out : List Byte
  geo : Geometry
  bq : BqUnit
  cmp : CmpUnit
  rvb : RvbUnit
  vol : VolUnit
  seek : SeekUnit
  /-- the bytes the host has sent and the core has not consumed (R300, R1040) -/
  port : List Byte
  /-- which free value comes next (`Config.freeNan`) -/
  free : Nat
  deriving DecidableEq, Repr

/-! ### Why a step can stop -/

/-- Why a step can stop with a fault: only where no command can start (R1040, I15). -/
inductive Fault where
  /-- Raised by `step` when the command port is empty: the core waits for the first byte of a
  command. Safe: the core does nothing there either. -/
  | portEmpty
  /-- Raised by `step` when the port holds part of a command: "a command cut short leaves the core
  waiting for its remaining bytes, with no step enabled" (R1040). Safe: the core does nothing there
  either. -/
  | commandCutShort
  deriving DecidableEq, Repr

/-- Why an instruction can be refused. -/
inductive Refusal where
  /-- Raised by `exec` for an instruction that has no meaning yet. Safe. -/
  | notModelled (mnemonic : String)
  deriving DecidableEq, Repr

/-- What a step or a meaning answers. -/
abbrev Result := Host.Outcome State Fault Refusal

/-! ### Reset -/

/-- The machine right after reset: R1100, row by row. `port` and `free` are the model's own
fields. -/
def State.reset : State where
  phase := .idle
  lastErr := .ok
  errSticky := false
  evq := []
  res0 := 0
  res1 := 0
  res2 := 0
  res3 := 0
  out := []
  geo := { bitdepth := .b16, endian := .little, rate := 48000, channels := 2 }
  bq :=
    { en := false
      type := .none
      freq := 0x408F400000000000#64
      q := Config.qBw
      gain := 0
      coeffs := { b0 := 0x3FF0000000000000#64, b1 := 0, b2 := 0, a1 := 0, a2 := 0 }
      hist := [] }
  cmp :=
    { en := false
      threshold := 0
      ratio := 0x3FF0000000000000#64
      attackMs := 0
      releaseMs := 0
      makeup := 0
      knee := 0
      attackC := 0
      releaseC := 0
      env := 0
      gr := 0 }
  rvb :=
    { en := false
      room := 0
      damping := 0
      wet := 0
      dry := 0x3FF0000000000000#64
      lineLen := 0
      cursor := 0
      line := [] }
  vol := { en := false, volume := 0x4059000000000000#64, gain := 0x3FF0000000000000#64 }
  seek := { totalMs := 0, pos := 0, pend := Option.none, left := [] }
  port := []
  free := 0

end Sys2Proof.Machine
end

