-- ==== Sys2Proof/Machine/F64.lean ====
section
/-!
DEFINITION. IEEE 754 binary64 arithmetic on raw bits (00_scope.md R14), exact and then rounded once
to nearest, ties to even. Every finite binary64 is a whole number of quanta, one quantum being
2^-1074, so that sums are exact integers, and products, quotients and square roots are exact ratios
of integers until the one rounding.

A NaN that arithmetic makes is the one pattern `f64NaN` here; where such a NaN is stored in a
register or a cell, `settle` gives it a free payload (93_implementation_defined.md I12; no rule reads
a payload).
-/

namespace Sys2Proof.Machine

/-! ### Constants -/

/-- The NaN that arithmetic on NaNs works with. -/
def f64NaN : F64 := 0x7FF8000000000000#64
/-- +∞ -/
def f64Inf : F64 := 0x7FF0000000000000#64
/-- +0.0 -/
def f64Zero : F64 := 0#64
/-- 0.5 -/
def f64Half : F64 := 0x3FE0000000000000#64
/-- 1.0 -/
def f64One : F64 := 0x3FF0000000000000#64
/-- 2.0 -/
def f64Two : F64 := 0x4000000000000000#64
/-- −1.0 -/
def f64NegOne : F64 := 0xBFF0000000000000#64
/-- −2.0 -/
def f64NegTwo : F64 := 0xC000000000000000#64
/-- 20.0 -/
def f64Twenty : F64 := 0x4034000000000000#64
/-- −20.0 -/
def f64NegTwenty : F64 := 0xC034000000000000#64
/-- 40.0 -/
def f64Forty : F64 := 0x4044000000000000#64
/-- 100.0 -/
def f64Hundred : F64 := 0x4059000000000000#64
/-- −100.0 -/
def f64NegHundred : F64 := 0xC059000000000000#64
/-- 1000.0 -/
def f64Thousand : F64 := 0x408F400000000000#64
/-- `PI` (R14) -/
def f64Pi : F64 := 0x400921FB54442D18#64

/-! ### Values and patterns -/

/-- What a pattern stands for. `mag` counts quanta of 2^-1074. -/
inductive F64Val where
  | nan
  | inf (neg : Bool)
  | fin (neg : Bool) (mag : Nat)
  deriving DecidableEq, Repr

/-- The value of a pattern. -/
def f64Unpack (x : F64) : F64Val :=
  let neg := decide (2 ^ 63 ≤ x.toNat)
  let e := x.toNat / 2 ^ 52 % 2 ^ 11
  let f := x.toNat % 2 ^ 52
  if e = 2047 then (if f = 0 then .inf neg else .nan)
  else if e = 0 then .fin neg f
  else .fin neg ((2 ^ 52 + f) <<< (e - 1))

/-- The pattern with a sign and the 63 bits below it. -/
def f64Pack (neg : Bool) (low : Nat) : F64 := BitVec.ofNat 64 ((if neg then 2 ^ 63 else 0) + low)

/-- The infinity of a sign. -/
def f64InfOf (neg : Bool) : F64 := f64Pack neg (2047 * 2 ^ 52)

/-- The nearest whole number to `num / unit`, ties to even. -/
def roundEven (num unit : Nat) : Nat :=
  let q := num / unit
  let r := num % unit
  if unit < 2 * r ∨ (unit = 2 * r ∧ q % 2 = 1) then q + 1 else q

/-- The binary64 nearest to `num / den` quanta, ties to even, with the given sign (R14). The unit in
the last place is 2^k quanta, with k the least for which the magnitude has at most 53 bits; what
reaches 2^1024 becomes an infinity. -/
def f64Round (neg : Bool) (num den : Nat) : F64 :=
  let k := Nat.log2 (num / den) - 52
  f64Pack neg (min (k * 2 ^ 52 + roundEven num (den <<< k)) (2047 * 2 ^ 52))

/-- Whether a pattern is a NaN. -/
def f64IsNaN (x : F64) : Bool :=
  match f64Unpack x with
  | .nan => true
  | .inf _ => false
  | .fin _ _ => false

/-- Whether a pattern is a finite number. -/
def f64IsFinite (x : F64) : Bool :=
  match f64Unpack x with
  | .nan => false
  | .inf _ => false
  | .fin _ _ => true

/-- A signed count of quanta. -/
def signedMag (neg : Bool) (mag : Nat) : Int := if neg then -(mag : Int) else mag

/-! ### Arithmetic (R14) -/

/-- −x: the sign bit flipped. -/
def fneg (x : F64) : F64 := x ^^^ 0x8000000000000000#64

/-- |x|: the sign bit cleared (R14). -/
def fabs (x : F64) : F64 := x &&& 0x7FFFFFFFFFFFFFFF#64

/-- x + y -/
def fadd (x y : F64) : F64 :=
  match f64Unpack x, f64Unpack y with
  | .nan, _ => f64NaN
  | _, .nan => f64NaN
  | .inf s, .inf t => if s = t then f64InfOf s else f64NaN
  | .inf s, .fin _ _ => f64InfOf s
  | .fin _ _, .inf t => f64InfOf t
  | .fin s m, .fin t n =>
    let z := signedMag s m + signedMag t n
    if z = 0 then f64Pack (s && t) 0 else f64Round (decide (z < 0)) z.natAbs 1

/-- x − y -/
def fsub (x y : F64) : F64 := fadd x (fneg y)

/-- x · y -/
def fmul (x y : F64) : F64 :=
  match f64Unpack x, f64Unpack y with
  | .nan, _ => f64NaN
  | _, .nan => f64NaN
  | .inf s, .inf t => f64InfOf (s ^^ t)
  | .inf s, .fin t n => if n = 0 then f64NaN else f64InfOf (s ^^ t)
  | .fin s m, .inf t => if m = 0 then f64NaN else f64InfOf (s ^^ t)
  | .fin s m, .fin t n => f64Round (s ^^ t) (m * n) (1 <<< 1074)

/-- x / y -/
def fdiv (x y : F64) : F64 :=
  match f64Unpack x, f64Unpack y with
  | .nan, _ => f64NaN
  | _, .nan => f64NaN
  | .inf _, .inf _ => f64NaN
  | .inf s, .fin t _ => f64InfOf (s ^^ t)
  | .fin s _, .inf t => f64Pack (s ^^ t) 0
  | .fin s m, .fin t n =>
    if n = 0 then (if m = 0 then f64NaN else f64InfOf (s ^^ t))
    else f64Round (s ^^ t) (m <<< 1074) n

/-- The integer square root by bisection on bits: the largest r with r·r ≤ n among those that agree
with `acc` above bit `k`. -/
def isqrtFrom : Nat → Nat → Nat → Nat
  | 0, acc, _ => acc
  | k + 1, acc, n =>
    let t := acc + 1 <<< k
    if t * t ≤ n then isqrtFrom k t n else isqrtFrom k acc n

/-- The integer square root of `n`. -/
def isqrt (n : Nat) : Nat := isqrtFrom (Nat.log2 n / 2 + 1) 0 n

/-- sqrt x. The square root of m quanta is sqrt(m · 2^1074) quanta; `r` is twice that, rounded down,
and the odd numerator says that something was dropped, which is all the rounding asks. -/
def fsqrt (x : F64) : F64 :=
  match f64Unpack x with
  | .nan => f64NaN
  | .inf s => if s then f64NaN else f64InfOf false
  | .fin s m =>
    if m = 0 then f64Pack s 0
    else if s then f64NaN
    else
      let n := (4 * m) <<< 1074
      let r := isqrt n
      f64Round false (2 * r + (if r * r = n then 0 else 1)) 4

/-! ### Comparisons (R14: false with a NaN, −0 equals +0) -/

/-- A number on a line that puts the infinities beyond every finite value; none for a NaN. -/
def f64Key (x : F64) : Option Int :=
  match f64Unpack x with
  | .nan => none
  | .inf s => some (signedMag s (1 <<< 2200))
  | .fin s m => some (signedMag s m)

/-- x < y -/
def flt (x y : F64) : Bool :=
  match f64Key x, f64Key y with
  | some a, some b => decide (a < b)
  | some _, none => false
  | none, _ => false

/-- x ≤ y -/
def fle (x y : F64) : Bool :=
  match f64Key x, f64Key y with
  | some a, some b => decide (a ≤ b)
  | some _, none => false
  | none, _ => false

/-- x == y -/
def feq (x y : F64) : Bool :=
  match f64Key x, f64Key y with
  | some a, some b => decide (a = b)
  | some _, none => false
  | none, _ => false

/-! ### Between integers and binary64 -/

/-- `toF64(i)`: exact for |i| ≤ 2^53 (R14); beyond, where R14 states no result, a free finite number of
i's sign that is not 0 (R511, assumption log 12). -/
def toF64 (i : Int) : F64 :=
  if i.natAbs ≤ 2 ^ 53 then f64Round (decide (i < 0)) (i.natAbs <<< 1074) 1
  else Config.toF64Beyond i

/-- The integer part of a finite number, truncated toward zero; 0 for what is not finite (no rule
truncates such a value: R17 clamps before it truncates). -/
def f64Trunc (x : F64) : Int :=
  match f64Unpack x with
  | .nan => 0
  | .inf _ => 0
  | .fin s m => signedMag s (m >>> 1074)

/-! ### clampF and quant (R15, R17) -/

/-- `clampF(v, lo, hi)` (R15). -/
def clampF (v lo hi : F64) : F64 :=
  if fle v lo then lo else if fle hi v then hi else v

/-- `quant(v)` for the extremum `ext` (R17): NaN gives 0; else clamped to [−ext, ext − 1] and
truncated toward zero. -/
def quant (ext : Nat) (v : F64) : Int :=
  if f64IsNaN v then 0
  else f64Trunc (clampF v (toF64 (-(ext : Int))) (toF64 ((ext : Int) - 1)))

/-! ### NaN payloads -/

/-- A value as it is stored: a NaN made by arithmetic gets the next free payload (I12); every other
value is stored as it is. -/
def settle (v : F64) (free : Nat) : F64 × Nat :=
  if f64IsNaN v then (Config.freeNan free, free + 1) else (v, free)

end Sys2Proof.Machine
end

