-- ==== Sys2Proof/Machine/Libm.lean ====
section
/-!
DEFINITION. The functions of the parameter LIBM, with exactly the special values of 00_scope.md R16
over the open functions of Config. A function does not read the payload of a NaN argument
(93_implementation_defined.md I12: "no rule reads a payload").
-/

namespace Sys2Proof.Machine

/-- A NaN argument as LIBM sees it: one value, whatever its payload. -/
def libmArg (x : F64) : F64 := if f64IsNaN x then f64NaN else x

/-- `sin`, with sin(+0) = +0 (R16). -/
def libmSin (x : F64) : F64 := if x = f64Zero then f64Zero else Config.libmSin (libmArg x)

/-- `cos`, with cos(+0) = 1 (R16). -/
def libmCos (x : F64) : F64 := if x = f64Zero then f64One else Config.libmCos (libmArg x)

/-- `tan`, with tan(+0) = +0 (R16). -/
def libmTan (x : F64) : F64 := if x = f64Zero then f64Zero else Config.libmTan (libmArg x)

/-- `exp`, with exp(−∞) = +0 and exp(−0) = exp(+0) = 1 (R16). -/
def libmExp (x : F64) : F64 :=
  if x = f64InfOf true then f64Zero
  else if x = f64Zero ∨ x = fneg f64Zero then f64One
  else Config.libmExp (libmArg x)

/-- `log10`, with log10(+0) = −∞ and log10(1) = +0 (R16). -/
def libmLog10 (x : F64) : F64 :=
  if x = f64Zero then f64InfOf true
  else if x = f64One then f64Zero
  else Config.libmLog10 (libmArg x)

/-- `pow10`, with pow10(+0) = 1 (R16). -/
def libmPow10 (x : F64) : F64 := if x = f64Zero then f64One else Config.libmPow10 (libmArg x)

end Sys2Proof.Machine
end

