-- ==== Sys2Proof/Machine/Ops.lean ====
section
/-!
DEFINITION. The named operations every meaning is written over: cell stores, the derived geometry,
posting an event, the completion step and the raising of an error (60_exceptions.md R1020, R1002),
teardown and instantiation (40_control.md R410, R411), and the host's own moves (R1040).
-/

namespace Sys2Proof.Machine

/-! ### Cell stores -/

/-- The canonical form: addresses strictly rising, no entry +0.0. -/
abbrev Memory.wf (m : Memory) : Prop := m.Pairwise (fun a b => a.1 < b.1) ∧ ∀ c ∈ m, c.2 ≠ 0

/-- What a cell holds; an unlisted cell holds +0.0 (R219, R410, R411). -/
def Memory.read : Memory → Nat → F64
  | [], _ => 0
  | (a, v) :: m, k => if a = k then v else Memory.read m k

/-- Writes a cell, keeping the canonical form. -/
def Memory.write : Memory → Nat → F64 → Memory
  | [], k, v => if v = 0 then [] else [(k, v)]
  | (a, w) :: m, k, v =>
    if k < a then (if v = 0 then (a, w) :: m else (k, v) :: (a, w) :: m)
    else if k = a then (if v = 0 then m else (k, v) :: m)
    else (a, w) :: Memory.write m k v

/-! ### Codes of the closed sets -/

/-- The error code's number (R1001). -/
def ErrCode.code : ErrCode → Word
  | .ok => 0
  | .illegalCommand => 1
  | .badRegister => 2
  | .notActive => 3
  | .unsupportedFormat => 4
  | .badRate => 5
  | .badChannels => 6
  | .geometryLocked => 7
  | .badFilterType => 8
  | .badFrequency => 9
  | .badQ => 10
  | .badParam => 11
  | .badVolume => 12
  | .badDuration => 13

/-- The filter type's code (R501). -/
def FilterType.code : FilterType → Word
  | .none => 0
  | .lowpass => 1
  | .highpass => 2
  | .bandpass => 3
  | .notch => 4
  | .allpass => 5
  | .peakingEq => 6
  | .lowshelf => 7
  | .highshelf => 8
  | .singlePoleLowpass => 9
  | .singlePoleLowpassApprox => 10

/-- The value BITDEPTH reads as (R111). -/
def BitDepth.code : BitDepth → Word
  | .b16 => 16
  | .b32 => 32

/-- The value ENDIAN reads as (R112). -/
def Endian.code : Endian → Word
  | .little => 0
  | .big => 1

/-- A bool register as the integer 0 or 1 (10_state.md, opening). -/
def boolWord (b : Bool) : Word := if b then 1 else 0

/-! ### Derived geometry (R115, R10) -/

/-- BYTE_WIDTH = BITDEPTH / 8 (R115). -/
def BitDepth.bytes : BitDepth → Nat
  | .b16 => 2
  | .b32 => 4

/-- EXTREMUM = 2^(BITDEPTH − 1) (R115). -/
def BitDepth.ext : BitDepth → Nat
  | .b16 => 2 ^ 15
  | .b32 => 2 ^ 31

/-- BW, bytes per sample. -/
def Geometry.byteWidth (g : Geometry) : Nat := g.bitdepth.bytes

/-- EXT, the extremum. -/
def Geometry.extremum (g : Geometry) : Nat := g.bitdepth.ext

/-- The number of channels. -/
def Geometry.chans (g : Geometry) : Nat := g.channels.toNat

/-- FRAME_BYTES = BYTE_WIDTH · CHANNELS (R115). -/
def Geometry.frameBytes (g : Geometry) : Nat := g.byteWidth * g.chans

/-- The sample rate as f64. -/
def Geometry.rateF (g : Geometry) : F64 := toF64 (g.rate.toNat : Int)

/-! ### Events, completion, errors -/

/-- `post(ev)`: appends an event to EVQ (R13, R107). -/
def State.post (s : State) (ev : Event) : State := { s with evq := s.evq ++ [ev] }

/-- `emit(bytes)`: appends to OUT (R13, R109). -/
def State.emit (s : State) (bytes : List Byte) : State := { s with out := s.out ++ bytes }

/-- The completion step (R1020): LAST_ERR takes the code, an error sets ERR_STICKY. STATUS is
`State.status` of what results. -/
def State.complete (s : State) (code : ErrCode) : State :=
  { s with lastErr := code, errSticky := s.errSticky || decide (code ≠ .ok) }

/-- `raise Err(code)`: the command ends with the error and no other effect (R13, R1002). This is the
core's exception entry (R1031): LAST_ERR and ERR_STICKY are all it writes. -/
def raiseErr (code : ErrCode) (s : State) : Result := .next (s.complete code)

/-- The end of a command that succeeds: the completion step with code 0 (R1020). -/
def succeed (s : State) : Result := .next (s.complete .ok)

/-- The end of an accepted setter: one RECONFIG event with the address and the stored value (R1011),
then completion. -/
def succeedReconfig (addr : BitVec 16) (value : Word) (s : State) : Result :=
  succeed (s.post (.reconfig addr value))

/-- The acknowledgement of an error, the only "return" the core has (R432, R1032). -/
def State.ackErr (s : State) : State := { s with errSticky := false }

/-! ### The lifecycle of running state (R410, R411) -/

/-- BQ with its history zeroed. -/
def BqUnit.cleared (u : BqUnit) : BqUnit := { u with hist := [] }

/-- CMP with its running state zeroed. -/
def CmpUnit.cleared (u : CmpUnit) : CmpUnit := { u with env := f64Zero, gr := f64Zero }

/-- RVB with `len` cells in each line, all +0.0, and the cursor at 0. -/
def RvbUnit.allocated (u : RvbUnit) (len : Word) : RvbUnit :=
  { u with lineLen := len, cursor := 0, line := [] }

/-- SEEK with no position, no pending target and no leftover. -/
def SeekUnit.cleared (u : SeekUnit) : SeekUnit := { u with pos := 0, pend := none, left := [] }

/-- `teardown()` (R410): idempotent; parameters, OUT and EVQ are kept. -/
def State.teardown (s : State) : State :=
  match s.phase with
  | .idle => s
  | .active =>
    { s with
      phase := .idle
      bq := s.bq.cleared
      cmp := s.cmp.cleared
      rvb := s.rvb.allocated 0
      seek := s.seek.cleared }

/-- L = max(1, floor(RATE / 20)) (R411, R701). -/
def Geometry.lineLen (g : Geometry) : Word := BitVec.ofNat 64 (max 1 (g.rate.toNat / 20))

/-- `instantiate()` (R411). -/
def State.instantiate (s : State) : State :=
  { s with
    phase := .active
    bq := s.bq.cleared
    cmp := s.cmp.cleared
    rvb := s.rvb.allocated s.geo.lineLen
    seek := s.seek.cleared }

/-! ### The host's moves (R1040) -/

/-- The host puts bytes on the command port, behind what is there. -/
def State.hostSend (s : State) (bytes : List Byte) : State := { s with port := s.port ++ bytes }

/-- The host takes `n` bytes from the head of OUT (R109). -/
def State.hostDrain (s : State) (n : Nat) : State := { s with out := s.out.drop n }

end Sys2Proof.Machine
end

