-- ==== Sys2Proof/Machine/Flags.lean ====
section
/-!
DEFINITION. STATUS and the interrupt line (10_state.md R106, 60_exceptions.md R1020 and R1030), and
the register address space that READ_REG reads (10_state.md R160).
-/

namespace Sys2Proof.Machine

/-- IRQ, a level: high while EVQ is non-empty (R1030). -/
def State.irq (s : State) : Bool := !s.evq.isEmpty

/-- STATUS (R106, R1020): ACTIVE, ERR, IRQ and PEND in bits 0 to 3. -/
def State.status (s : State) : Word :=
  boolWord (decide (s.phase = .active))
    ||| boolWord s.errSticky <<< 1
    ||| boolWord s.irq <<< 2
    ||| boolWord s.seek.pend.isSome <<< 3

/-- The control unit's and the geometry registers, 0x0000 to 0x0016 (R104 to R115). EVQ is unbounded
and EVQ_COUNT has 64 bits: what it reads with 2^64 events or more the spec does not say, and here it is
the count modulo 2^64 (DESIGN CHOICE, assumption log 18). -/
def State.readControl (s : State) : Nat → Option Word
  | 0x0000 => some s.status
  | 0x0001 => some s.lastErr.code
  | 0x0002 => some (BitVec.ofNat 64 s.evq.length)
  | 0x0003 => some Config.coreId
  | 0x0010 => some s.geo.bitdepth.code
  | 0x0011 => some s.geo.endian.code
  | 0x0012 => some s.geo.rate
  | 0x0013 => some s.geo.channels
  | 0x0014 => some (BitVec.ofNat 64 s.geo.byteWidth)
  | 0x0015 => some (BitVec.ofNat 64 s.geo.extremum)
  | 0x0016 => some (BitVec.ofNat 64 s.geo.frameBytes)
  | _ => none

/-- BQ's registers, by the low byte of 0x01xx (R120, R121). -/
def BqUnit.readReg (u : BqUnit) : Nat → Option Word
  | 0x00 => some (boolWord u.en)
  | 0x01 => some u.type.code
  | 0x02 => some u.freq
  | 0x03 => some u.q
  | 0x04 => some u.gain
  | 0x05 => some Config.qBw
  | 0x08 => some u.coeffs.b0
  | 0x09 => some u.coeffs.b1
  | 0x0A => some u.coeffs.b2
  | 0x0B => some u.coeffs.a1
  | 0x0C => some u.coeffs.a2
  | _ => none

/-- CMP's registers, by the low byte of 0x02xx (R130 to R132). -/
def CmpUnit.readReg (u : CmpUnit) : Nat → Option Word
  | 0x00 => some (boolWord u.en)
  | 0x01 => some u.threshold
  | 0x02 => some u.ratio
  | 0x03 => some u.attackMs
  | 0x04 => some u.releaseMs
  | 0x05 => some u.makeup
  | 0x06 => some u.knee
  | 0x07 => some u.attackC
  | 0x08 => some u.releaseC
  | 0x09 => some u.env
  | 0x0A => some u.gr
  | _ => none

/-- RVB's registers, by the low byte of 0x03xx (R140, R141). N_LINES is any integer from 1 up and
RVB_NUM_LINES has 64 bits: what it reads for N_LINES of 2^64 or more the spec does not say, and here it
is N_LINES modulo 2^64 (DESIGN CHOICE, assumption log 18). -/
def RvbUnit.readReg (u : RvbUnit) : Nat → Option Word
  | 0x00 => some (boolWord u.en)
  | 0x01 => some u.room
  | 0x02 => some u.damping
  | 0x03 => some u.wet
  | 0x04 => some u.dry
  | 0x05 => some u.lineLen
  | 0x06 => some u.cursor
  | 0x07 => some (BitVec.ofNat 64 Config.nLines)
  | 0x08 => some Config.feedback
  | _ => none

/-- VOL's registers, by the low byte of 0x04xx (R145). -/
def VolUnit.readReg (u : VolUnit) : Nat → Option Word
  | 0x00 => some (boolWord u.en)
  | 0x01 => some u.volume
  | 0x02 => some u.gain
  | _ => none

/-- SEEK's registers, by the low byte of 0x05xx (R150 to R153). -/
def SeekUnit.readReg (u : SeekUnit) : Nat → Option Word
  | 0x00 => some u.totalMs
  | 0x01 => some u.pos
  | 0x02 => some (boolWord u.pend.isSome)
  | 0x03 => some (u.pend.getD 0)
  | 0x04 => some (BitVec.ofNat 64 u.left.length)
  | _ => none

/-- BQ's history, from 0x4000 on: cell 4c + k of a channel c < CHANNELS (R122, R430). -/
def State.readHistory (s : State) (cell : Nat) : Option Word :=
  if cell / 4 < s.geo.chans then some (s.bq.hist.read cell) else none

/-- The value of register `a`; none for a reserved address or a channel's history that the geometry
does not have (R160, R430). -/
def State.readReg (s : State) (a : BitVec 16) : Option Word :=
  if 0x4000 ≤ a.toNat then s.readHistory (a.toNat - 0x4000)
  else
    match a.toNat / 256 with
    | 0 => s.readControl a.toNat
    | 1 => s.bq.readReg (a.toNat % 256)
    | 2 => s.cmp.readReg (a.toNat % 256)
    | 3 => s.rvb.readReg (a.toNat % 256)
    | 4 => s.vol.readReg (a.toNat % 256)
    | 5 => s.seek.readReg (a.toNat % 256)
    | _ => none

end Sys2Proof.Machine
end

