-- ==== Sys2Proof/Machine/Operands.lean ====
section
/-!
DEFINITION. The value checks of operands (60_exceptions.md R1001, R1003): each answers the value the
command stores, or the error the command ends with.
-/

namespace Sys2Proof.Machine

/-- −0 is stored as +0 (R531, R830). -/
def plusZero (v : F64) : F64 := if feq v f64Zero then f64Zero else v

/-- A clamping setter's operand: NaN is BAD_PARAM, everything else is clamped (D26, D31). -/
def clampedOperand (v lo hi : F64) : Except ErrCode F64 :=
  if f64IsNaN v then .error .badParam else .ok (clampF v lo hi)

/-- SET_BITDEPTH's operand (R420). -/
def bitdepthOperand (v : Word) : Except ErrCode BitDepth :=
  if v = 16 then .ok .b16 else if v = 32 then .ok .b32 else .error .unsupportedFormat

/-- SET_ENDIAN's operand (R421). -/
def endianOperand (v : Word) : Except ErrCode Endian :=
  if v = 0 then .ok .little else if v = 1 then .ok .big else .error .unsupportedFormat

/-- SET_RATE's operand against MAX_RATE, and then against the Nyquist limit of the held frequency
(R422). -/
def rateOperand (v : Word) (freq : F64) : Except ErrCode Word :=
  if v.toNat < 1 then .error .badRate
  else if Config.maxRate < v.toNat then .error .badRate
  else if flt (toF64 (v.toNat : Int)) (fmul f64Two freq) then .error .badFrequency
  else .ok v

/-- SET_CHANNELS's operand (R423). -/
def channelsOperand (v : Word) : Except ErrCode Word :=
  if v.toNat < 1 then .error .badChannels
  else if Config.maxChannels < v.toNat then .error .badChannels
  else .ok v

/-- BQ.SET_TYPE's operand (R501, R530). -/
def filterTypeOperand (v : Word) : Except ErrCode FilterType :=
  match v.toNat with
  | 0 => .ok .none
  | 1 => .ok .lowpass
  | 2 => .ok .highpass
  | 3 => .ok .bandpass
  | 4 => .ok .notch
  | 5 => .ok .allpass
  | 6 => .ok .peakingEq
  | 7 => .ok .lowshelf
  | 8 => .ok .highshelf
  | 9 => .ok .singlePoleLowpass
  | 10 => .ok .singlePoleLowpassApprox
  | _ => .error .badFilterType

/-- BQ.SET_FREQ's operand: finite, not negative, not above half the rate (R531). -/
def freqOperand (v rateF : F64) : Except ErrCode F64 :=
  if f64IsFinite v = false then .error .badFrequency
  else if flt v f64Zero then .error .badFrequency
  else if flt rateF (fmul f64Two (plusZero v)) then .error .badFrequency
  else .ok (plusZero v)

/-- BQ.SET_Q's operand: finite and above 0 (R532). -/
def qOperand (v : F64) : Except ErrCode F64 :=
  if f64IsFinite v = false then .error .badQ
  else if flt f64Zero v then .ok v
  else .error .badQ

/-- BQ.SET_GAIN's operand: finite (R533). -/
def gainOperand (v : F64) : Except ErrCode F64 :=
  if f64IsFinite v then .ok v else .error .badParam

/-- VOL.SET_VOLUME's operand: not NaN, not negative; +∞ becomes VOL_MAX, −0 becomes +0 (R830). -/
def volumeOperand (v : F64) : Except ErrCode F64 :=
  if f64IsNaN v then .error .badVolume
  else if flt v f64Zero then .error .badVolume
  else if v = f64Inf then .ok Config.volMax
  else .ok (plusZero v)

/-- SEEK.SET_DURATION's operand: finite and above 0 (R930). -/
def durationOperand (v : F64) : Except ErrCode F64 :=
  if f64IsFinite v = false then .error .badDuration
  else if fle v f64Zero then .error .badDuration
  else .ok v

end Sys2Proof.Machine
end

