-- ==== Sys2Proof/Machine/Biquad.lean ====
section
/-!
DEFINITION. The BQ unit (42_biquad.md): coefficient design (R510 to R524), the per-sample step (R520)
and the six BQ commands (R530 to R535). Every expression is evaluated left to right as the rule
writes it, one rounding an operator (R14).
-/

namespace Sys2Proof.Machine

/-! ### Coefficient design -/

/-- Raw values b0, b1, b2, a0, a1, a2 divided by a0 (R510). -/
def normalised (b0 b1 b2 a0 a1 a2 : F64) : Coeffs :=
  { b0 := fdiv b0 a0, b1 := fdiv b1 a0, b2 := fdiv b2 a0, a1 := fdiv a1 a0, a2 := fdiv a2 a0 }

/-- `omega = 2.0 * PI * f / fs` (R512). -/
def designOmega (fs f : F64) : F64 := fdiv (fmul (fmul f64Two f64Pi) f) fs

/-- `alpha = sn / (2.0 * q)` (R512). -/
def designAlpha (sn q : F64) : F64 := fdiv sn (fmul f64Two q)

/-- `A = pow10(g / 40.0)` (R512). -/
def designAmp (g : F64) : F64 := libmPow10 (fdiv g f64Forty)

/-- NONE (R513). -/
def designNone : Coeffs := { b0 := f64One, b1 := f64Zero, b2 := f64Zero, a1 := f64Zero, a2 := f64Zero }

/-- LOWPASS (R514). -/
def designLowpass (cs alpha : F64) : Coeffs :=
  normalised (fmul (fsub f64One cs) f64Half) (fsub f64One cs) (fmul (fsub f64One cs) f64Half)
    (fadd f64One alpha) (fmul f64NegTwo cs) (fsub f64One alpha)

/-- HIGHPASS (R515). -/
def designHighpass (cs alpha : F64) : Coeffs :=
  normalised (fmul (fadd f64One cs) f64Half) (fneg (fadd f64One cs)) (fmul (fadd f64One cs) f64Half)
    (fadd f64One alpha) (fmul f64NegTwo cs) (fsub f64One alpha)

/-- BANDPASS, constant skirt gain (R516). -/
def designBandpass (sn cs alpha : F64) : Coeffs :=
  normalised (fdiv sn f64Two) f64Zero (fneg (fdiv sn f64Two))
    (fadd f64One alpha) (fmul f64NegTwo cs) (fsub f64One alpha)

/-- NOTCH (R517). -/
def designNotch (cs alpha : F64) : Coeffs :=
  normalised f64One (fmul f64NegTwo cs) f64One
    (fadd f64One alpha) (fmul f64NegTwo cs) (fsub f64One alpha)

/-- ALLPASS (R518). -/
def designAllpass (cs alpha : F64) : Coeffs :=
  normalised (fsub f64One alpha) (fmul f64NegTwo cs) (fadd f64One alpha)
    (fadd f64One alpha) (fmul f64NegTwo cs) (fsub f64One alpha)

/-- PEAKING_EQ (R519). -/
def designPeaking (cs alpha amp : F64) : Coeffs :=
  normalised (fadd f64One (fmul alpha amp)) (fmul f64NegTwo cs) (fsub f64One (fmul alpha amp))
    (fadd f64One (fdiv alpha amp)) (fmul f64NegTwo cs) (fsub f64One (fdiv alpha amp))

/-- LOWSHELF (R521). -/
def designLowshelf (cs alpha amp : F64) : Coeffs :=
  let ap := fadd amp f64One
  let am := fsub amp f64One
  let shelf := fmul (fmul f64Two alpha) (fsqrt amp)
  normalised
    (fmul amp (fadd (fsub ap (fmul am cs)) shelf))
    (fmul (fmul f64Two amp) (fsub am (fmul ap cs)))
    (fmul amp (fsub (fsub ap (fmul am cs)) shelf))
    (fadd (fadd ap (fmul am cs)) shelf)
    (fmul f64NegTwo (fadd am (fmul ap cs)))
    (fsub (fadd ap (fmul am cs)) shelf)

/-- HIGHSHELF (R522). -/
def designHighshelf (cs alpha amp : F64) : Coeffs :=
  let ap := fadd amp f64One
  let am := fsub amp f64One
  let shelf := fmul (fmul f64Two alpha) (fsqrt amp)
  normalised
    (fmul amp (fadd (fadd ap (fmul am cs)) shelf))
    (fmul (fmul f64NegTwo amp) (fadd am (fmul ap cs)))
    (fmul amp (fsub (fadd ap (fmul am cs)) shelf))
    (fadd (fsub ap (fmul am cs)) shelf)
    (fmul f64Two (fsub am (fmul ap cs)))
    (fsub (fsub ap (fmul am cs)) shelf)

/-- SINGLE_POLE_LOWPASS, bilinear one-pole (R523). -/
def designSinglePole (wt : F64) : Coeffs :=
  let a0 := fadd f64One wt
  { b0 := fdiv wt a0, b1 := fdiv wt a0, b2 := f64Zero, a1 := fdiv (fsub wt f64One) a0, a2 := f64Zero }

/-- SINGLE_POLE_LOWPASS_APPROX (R524). -/
def designSinglePoleApprox (omega : F64) : Coeffs :=
  let ap := fdiv omega (fadd omega f64One)
  { b0 := ap, b1 := f64Zero, b2 := f64Zero, a1 := fsub ap f64One, a2 := f64Zero }

/-- `design(t, fs, f, q, g)` (R510): COEFF_DESIGN at its decided value, the designs of R512 to R524
(D18). -/
def design (t : FilterType) (fs f q g : F64) : Coeffs :=
  let omega := designOmega fs f
  let sn := libmSin omega
  let cs := libmCos omega
  let alpha := designAlpha sn q
  let amp := designAmp g
  match t with
  | .none => designNone
  | .lowpass => designLowpass cs alpha
  | .highpass => designHighpass cs alpha
  | .bandpass => designBandpass sn cs alpha
  | .notch => designNotch cs alpha
  | .allpass => designAllpass cs alpha
  | .peakingEq => designPeaking cs alpha amp
  | .lowshelf => designLowshelf cs alpha amp
  | .highshelf => designHighshelf cs alpha amp
  | .singlePoleLowpass => designSinglePole (libmTan (fdiv omega f64Two))
  | .singlePoleLowpassApprox => designSinglePoleApprox omega

/-- Whether all five coefficients are finite (R510, R121). -/
def Coeffs.finite (c : Coeffs) : Bool :=
  f64IsFinite c.b0 && f64IsFinite c.b1 && f64IsFinite c.b2 && f64IsFinite c.a1 && f64IsFinite c.a2

/-- The checked design: BAD_PARAM when a coefficient is not finite (R510). -/
def checkedDesign (t : FilterType) (fs f q g : F64) : Except ErrCode Coeffs :=
  if (design t fs f q g).finite then .ok (design t fs f q g) else .error .badParam

/-! ### The per-sample step -/

/-- `y = B0*x + B1*x1 + B2*x2 − A1*y1 − A2*y2`, left to right (R520). -/
def biquadOutput (c : Coeffs) (x x1 x2 y1 y2 : F64) : F64 :=
  fsub (fsub (fadd (fadd (fmul c.b0 x) (fmul c.b1 x1)) (fmul c.b2 x2)) (fmul c.a1 y1)) (fmul c.a2 y2)

/-- `bq_step(s, c)` (R520) for sample `v` of channel `ch`: the output sample, the unit with the
channel's history shifted, and the next free value. -/
def bqStep (ext : Nat) (u : BqUnit) (ch : Nat) (v : Int) (free : Nat) : Int × BqUnit × Nat :=
  let x := toF64 v
  let x1 := u.hist.read (4 * ch)
  let x2 := u.hist.read (4 * ch + 1)
  let y1 := u.hist.read (4 * ch + 2)
  let y2 := u.hist.read (4 * ch + 3)
  let y := biquadOutput u.coeffs x x1 x2 y1 y2
  let kept := settle y free
  let hist :=
    (((u.hist.write (4 * ch + 1) x1).write (4 * ch) x).write (4 * ch + 3) y1).write (4 * ch + 2) kept.1
  (quant ext y, { u with hist := hist }, kept.2)

/-! ### The BQ commands -/

/-- BQ.SET_TYPE (R530). -/
def execBqSetType (v : Word) (s : State) : Result :=
  match filterTypeOperand v with
  | .error e => raiseErr e s
  | .ok t =>
    match checkedDesign t s.geo.rateF s.bq.freq s.bq.q s.bq.gain with
    | .error e => raiseErr e s
    | .ok c => succeedReconfig 0x0101 v { s with bq := { s.bq with type := t, coeffs := c } }

/-- BQ.SET_FREQ (R531). -/
def execBqSetFreq (v : F64) (s : State) : Result :=
  match freqOperand v s.geo.rateF with
  | .error e => raiseErr e s
  | .ok f =>
    match checkedDesign s.bq.type s.geo.rateF f s.bq.q s.bq.gain with
    | .error e => raiseErr e s
    | .ok c => succeedReconfig 0x0102 f { s with bq := { s.bq with freq := f, coeffs := c } }

/-- BQ.SET_Q (R532). -/
def execBqSetQ (v : F64) (s : State) : Result :=
  match qOperand v with
  | .error e => raiseErr e s
  | .ok q =>
    match checkedDesign s.bq.type s.geo.rateF s.bq.freq q s.bq.gain with
    | .error e => raiseErr e s
    | .ok c => succeedReconfig 0x0103 q { s with bq := { s.bq with q := q, coeffs := c } }

/-- BQ.SET_GAIN (R533). -/
def execBqSetGain (v : F64) (s : State) : Result :=
  match gainOperand v with
  | .error e => raiseErr e s
  | .ok g =>
    match checkedDesign s.bq.type s.geo.rateF s.bq.freq s.bq.q g with
    | .error e => raiseErr e s
    | .ok c => succeedReconfig 0x0104 g { s with bq := { s.bq with gain := g, coeffs := c } }

/-- BQ.ENABLE (R534). -/
def execBqEnable (s : State) : Result :=
  succeedReconfig 0x0100 1 { s with bq := { s.bq with en := true } }

/-- BQ.DISABLE (R535). -/
def execBqDisable (s : State) : Result :=
  succeedReconfig 0x0100 0 { s with bq := { s.bq with en := false } }

end Sys2Proof.Machine
end

