-- ==== Sys2Proof/Machine/Compressor.lean ====
section
/-!
DEFINITION. The CMP unit (43_compressor.md): the smoothing coefficient (R601), the gain computer
(R612), the per-sample step (R610 to R615) and the eight CMP commands (R630 to R637).
-/

namespace Sys2Proof.Machine

/-- `coefOf(ms) = exp(-1.0 / ((fs * ms) / 1000.0))` (R601). -/
def coefOf (rateF ms : F64) : F64 :=
  libmExp (fdiv f64NegOne (fdiv (fmul rateF ms) f64Thousand))

/-- One smoothing step: `c · old + (1.0 − c) · new` (R610, R613). -/
def smooth (c old new : F64) : F64 := fadd (fmul c old) (fmul (fsub f64One c) new)

/-- `gainComputer(inDb)` for threshold T, ratio R, knee width K (R612), in either reading of the
knee. -/
def gainComputer (formula : Config.KneeFormula) (threshold ratio knee inDb : F64) : F64 :=
  let d := fsub inDb threshold
  let hk := fdiv knee f64Two
  if fle (fabs d) hk then
    if feq knee f64Zero then f64Zero
    else
      let x := fadd d hk
      match formula with
      | .continuous =>
        fdiv (fmul (fsub f64One (fdiv f64One ratio)) (fmul x x)) (fmul f64Two knee)
      | .literal =>
        fdiv (fmul (fsub (fdiv f64One ratio) f64One) (fmul x x)) (fmul f64Two knee)
  else if flt d f64Zero then f64Zero
  else fmul d (fsub f64One (fdiv f64One ratio))

/-- The envelope's next value (R610): the attack branch for `ax > ENV`, else the release branch. -/
def nextEnv (u : CmpUnit) (ax : F64) : F64 :=
  if flt u.env ax then smooth u.attackC u.env ax else smooth u.releaseC u.env ax

/-- `inDb = 20.0 · log10(ENV)` (R611). -/
def levelDb (env : F64) : F64 := fmul f64Twenty (libmLog10 env)

/-- `linearGain(dB) = pow10(dB / 20.0)` (R614). -/
def linearGain (db : F64) : F64 := libmPow10 (fdiv db f64Twenty)

/-- `cmp_step(s)` (R610) for sample `v`: the output sample, the unit with ENV and GR updated, and the
next free value. -/
def cmpStep (ext : Nat) (u : CmpUnit) (v : Int) (free : Nat) : Int × CmpUnit × Nat :=
  let xn := fdiv (toF64 v) (toF64 (ext : Int))
  let env := settle (nextEnv u (fabs xn)) free
  let tgt := gainComputer Config.kneeFormula u.threshold u.ratio u.knee (levelDb env.1)
  let gr := settle (smooth u.attackC u.gr tgt) env.2
  let g := linearGain (fadd (fneg gr.1) u.makeup)
  (quant ext (fmul (toF64 v) g), { u with env := env.1, gr := gr.1 }, gr.2)

/-! ### The CMP commands -/

/-- CMP.SET_THRESHOLD (R630). -/
def execCmpSetThreshold (v : F64) (s : State) : Result :=
  match clampedOperand v f64NegHundred f64Zero with
  | .error e => raiseErr e s
  | .ok t => succeedReconfig 0x0201 t { s with cmp := { s.cmp with threshold := t } }

/-- CMP.SET_RATIO (R631). -/
def execCmpSetRatio (v : F64) (s : State) : Result :=
  match clampedOperand v f64One f64Inf with
  | .error e => raiseErr e s
  | .ok r => succeedReconfig 0x0202 r { s with cmp := { s.cmp with ratio := r } }

/-- CMP.SET_ATTACK (R632). -/
def execCmpSetAttack (v : F64) (s : State) : Result :=
  match clampedOperand v f64Zero f64Inf with
  | .error e => raiseErr e s
  | .ok ms =>
    succeedReconfig 0x0203 ms
      { s with cmp := { s.cmp with attackMs := ms, attackC := coefOf s.geo.rateF ms } }

/-- CMP.SET_RELEASE (R633). -/
def execCmpSetRelease (v : F64) (s : State) : Result :=
  match clampedOperand v f64Zero f64Inf with
  | .error e => raiseErr e s
  | .ok ms =>
    succeedReconfig 0x0204 ms
      { s with cmp := { s.cmp with releaseMs := ms, releaseC := coefOf s.geo.rateF ms } }

/-- CMP.SET_MAKEUP (R634). -/
def execCmpSetMakeup (v : F64) (s : State) : Result :=
  match clampedOperand v f64NegTwenty f64Twenty with
  | .error e => raiseErr e s
  | .ok m => succeedReconfig 0x0205 m { s with cmp := { s.cmp with makeup := m } }

/-- CMP.SET_KNEE (R635). -/
def execCmpSetKnee (v : F64) (s : State) : Result :=
  match clampedOperand v f64Zero f64Twenty with
  | .error e => raiseErr e s
  | .ok k => succeedReconfig 0x0206 k { s with cmp := { s.cmp with knee := k } }

/-- CMP.ENABLE (R636). -/
def execCmpEnable (s : State) : Result :=
  succeedReconfig 0x0200 1 { s with cmp := { s.cmp with en := true } }

/-- CMP.DISABLE (R637). -/
def execCmpDisable (s : State) : Result :=
  succeedReconfig 0x0200 0 { s with cmp := { s.cmp with en := false } }

end Sys2Proof.Machine
end

