-- ==== Sys2Proof/Machine/Gain.lean ====
section
/-!
DEFINITION. The VOL unit (45_gain.md): the per-sample step (R810) and the three VOL commands (R830 to
R832).
-/

namespace Sys2Proof.Machine

/-- `vol_step(s)` (R810) for sample `v`: untouched at unity gain, else scaled and quantised. -/
def volStep (ext : Nat) (u : VolUnit) (v : Int) : Int :=
  if feq u.gain f64One then v else quant ext (fmul (toF64 v) u.gain)

/-- VOL.SET_VOLUME (R830). -/
def execVolSetVolume (v : F64) (s : State) : Result :=
  match volumeOperand v with
  | .error e => raiseErr e s
  | .ok x =>
    succeedReconfig 0x0401 x { s with vol := { s.vol with volume := x, gain := fdiv x f64Hundred } }

/-- VOL.ENABLE (R831). -/
def execVolEnable (s : State) : Result :=
  succeedReconfig 0x0400 1 { s with vol := { s.vol with en := true } }

/-- VOL.DISABLE (R832). -/
def execVolDisable (s : State) : Result :=
  succeedReconfig 0x0400 0 { s with vol := { s.vol with en := false } }

end Sys2Proof.Machine
end

