-- ==== Sys2Proof/Machine/Reverb.lean ====
section
/-!
DEFINITION. The RVB unit (44_reverb.md): the per-sample step over the delay lines (R710) and the six
RVB commands (R730 to R735).
-/

namespace Sys2Proof.Machine

/-- What the line loop of R710 leaves: LINE, the wet sum, the next free value. -/
structure LineSweep where
  line : Memory
  wet : F64
  free : Nat
  deriving DecidableEq, Repr

/-- The loop body of R710 for one line whose cell is `cell`: read, scale by `k`, write back input
plus scaled feedback, accumulate. -/
def sweepLine (fb k x : F64) (cell : Nat) (w : LineSweep) : LineSweep :=
  let sc := fmul (w.line.read cell) k
  let back := settle (fadd x (fmul sc fb)) w.free
  { line := w.line.write cell back.1, wet := fadd w.wet sc, free := back.2 }

/-- The loop of R710 over `count` lines from line `i` up, each of `len` cells, at cursor `cur`. -/
def sweepLines (fb k x : F64) (len cur : Nat) : Nat → Nat → LineSweep → LineSweep
  | 0, _, w => w
  | count + 1, i, w => sweepLines fb k x len cur count (i + 1) (sweepLine fb k x (i * len + cur) w)

/-- `rvb_step(s)` (R710) for `nLines` lines and feedback `fb`: the output sample, the unit with LINE
and the cursor updated, and the next free value. -/
def rvbStepWith (nLines : Nat) (fb : F64) (ext : Nat) (u : RvbUnit) (v : Int) (free : Nat) :
    Int × RvbUnit × Nat :=
  let x := toF64 v
  let k := fmul u.room (fsub f64One u.damping)
  let w := sweepLines fb k x u.lineLen.toNat u.cursor.toNat nLines 0 ⟨u.line, f64Zero, free⟩
  let cursor := BitVec.ofNat 64 ((u.cursor.toNat + 1) % u.lineLen.toNat)
  let y := fadd (fmul x u.dry) (fmul (fdiv w.wet (toF64 (nLines : Int))) u.wet)
  (quant ext y, { u with line := w.line, cursor := cursor }, w.free)

/-- `rvb_step(s)` with the core's N_LINES and FB. -/
def rvbStep (ext : Nat) (u : RvbUnit) (v : Int) (free : Nat) : Int × RvbUnit × Nat :=
  rvbStepWith Config.nLines Config.feedback ext u v free

/-! ### The RVB commands -/

/-- RVB.SET_ROOM (R730). -/
def execRvbSetRoom (v : F64) (s : State) : Result :=
  match clampedOperand v f64Zero f64One with
  | .error e => raiseErr e s
  | .ok x => succeedReconfig 0x0301 x { s with rvb := { s.rvb with room := x } }

/-- RVB.SET_DAMPING (R731). -/
def execRvbSetDamping (v : F64) (s : State) : Result :=
  match clampedOperand v f64Zero f64One with
  | .error e => raiseErr e s
  | .ok x => succeedReconfig 0x0302 x { s with rvb := { s.rvb with damping := x } }

/-- RVB.SET_WET (R732). -/
def execRvbSetWet (v : F64) (s : State) : Result :=
  match clampedOperand v f64Zero f64One with
  | .error e => raiseErr e s
  | .ok x => succeedReconfig 0x0303 x { s with rvb := { s.rvb with wet := x } }

/-- RVB.SET_DRY (R733). -/
def execRvbSetDry (v : F64) (s : State) : Result :=
  match clampedOperand v f64Zero f64One with
  | .error e => raiseErr e s
  | .ok x => succeedReconfig 0x0304 x { s with rvb := { s.rvb with dry := x } }

/-- RVB.ENABLE (R734). -/
def execRvbEnable (s : State) : Result :=
  succeedReconfig 0x0300 1 { s with rvb := { s.rvb with en := true } }

/-- RVB.DISABLE (R735). -/
def execRvbDisable (s : State) : Result :=
  succeedReconfig 0x0300 0 { s with rvb := { s.rvb with en := false } }

end Sys2Proof.Machine
end

