-- ==== Sys2Proof/Machine/Seeker.lean ====
section
/-!
DEFINITION. The SEEK unit (46_seeker.md): resolving a time (R911), converting it to a target position
(R912), tracking a chunk (R920, R921) and the two SEEK commands (R930, R931).
-/

namespace Sys2Proof.Machine

/-! ### Times and positions -/

/-- `resolve(ms)` for total duration `total` (R911): a negative time counts from the end. -/
def resolve (total ms : F64) : F64 :=
  if flt ms f64Zero then clampF (fadd total ms) f64Zero total else clampF ms f64Zero total

/-- `t = (r * toF64(RATE)) / 1000.0` (R912). -/
def seekTime (rateF r : F64) : F64 := fdiv (fmul r rateF) f64Thousand

/-- `frames = floor(t)` (R912). R912 takes `t` to be finite; where the product overflows, the count is
one beyond 64 bits, so that the target saturates as D34, D38 and I14 have it (DEDUCED, assumption
log 13). -/
def seekFrames (t : F64) : Nat := if f64IsFinite t then (f64Trunc t).toNat else 2 ^ 64

/-- `target = frames * CHANNELS`, saturated to the largest multiple of CHANNELS below 2^64 (R912). -/
def seekTarget (chans frames : Nat) : Nat :=
  if 2 ^ 64 - 1 < frames * chans then (2 ^ 64 - 1) / chans * chans else frames * chans

/-! ### Chunk tracking -/

/-- `track(buf)` (R920): the bytes that enter the chain, and the unit with its position, its pending
target and its leftover updated (R450 stores the leftover). Positions are compared on the unbounded
integers and stored modulo 2^64 (R923). -/
def track (g : Geometry) (u : SeekUnit) (buf : List Byte) : List Byte × SeekUnit :=
  let f := buf.length / g.frameBytes
  let whole := buf.take (f * g.frameBytes)
  let rest := buf.drop (f * g.frameBytes)
  let endPos := u.pos.toNat + f * g.chans
  let pos := BitVec.ofNat 64 endPos
  match u.pend with
  | some p =>
    if endPos ≤ p.toNat then ([], { u with pos := pos, left := rest })
    else
      (whole.drop ((p.toNat - u.pos.toNat) * g.byteWidth),
        { u with pos := pos, pend := none, left := rest })
  | none => (whole, { u with pos := pos, left := rest })

/-! ### The SEEK commands -/

/-- SEEK.SET_DURATION (R930). -/
def execSeekSetDuration (v : F64) (s : State) : Result :=
  match durationOperand v with
  | .error e => raiseErr e s
  | .ok x => succeedReconfig 0x0500 x { s with seek := { s.seek with totalMs := x } }

/-- Where the stream will continue: the pending target, or the position (R931, `eff`). -/
def SeekUnit.continuesAt (u : SeekUnit) : Word := u.pend.getD u.pos

/-- The unit after a seek to `target` that changes where the stream continues (R931): behind the
position, it moves the position and drops pending target and leftover; else it sets the pending
target. -/
def SeekUnit.movedTo (u : SeekUnit) (target : Word) : SeekUnit :=
  if target.toNat < u.pos.toNat then { u with pos := target, pend := none, left := [] }
  else { u with pend := some target }

/-- The part of SEEK after the target is known (R931): nothing more when the stream continues there
already, else the move and one SEEK event. -/
def seekTo (r : F64) (target : Word) (s : State) : Result :=
  if target = s.seek.continuesAt then succeed s
  else
    succeed
      (({ s with seek := s.seek.movedTo target }).post
        (.seek r target (BitVec.ofNat 64 (target.toNat * s.geo.byteWidth))))

/-- SEEK.SEEK (R931). -/
def execSeekSeek (v : F64) (s : State) : Result :=
  match s.phase with
  | .idle => raiseErr .notActive s
  | .active =>
    if f64IsNaN v then raiseErr .badParam s
    else if feq s.seek.totalMs f64Zero then succeed { s with res0 := f64Zero }
    else
      let r := resolve s.seek.totalMs v
      let frames := seekFrames (seekTime s.geo.rateF r)
      seekTo r (BitVec.ofNat 64 (seekTarget s.geo.chans frames)) { s with res0 := r }

end Sys2Proof.Machine
end

