-- ==== Sys2Proof/Machine/Stream.lean ====
section
/-!
DEFINITION. The data path (41_stream.md): the sample codec (R451 to R453), the stage order (R461,
R462), frame processing (R460) and PUSH (R450).
-/

namespace Sys2Proof.Machine

/-! ### The sample codec -/

/-- The bytes of a number in the geometry's byte order (R202): `bytes` is least significant first. -/
def Endian.order (e : Endian) (bytes : List Byte) : List Byte :=
  match e with
  | .little => bytes
  | .big => bytes.reverse

/-- The two's-complement number of an unsigned pattern below 2 · ext (R452, `sext_BITDEPTH`). -/
def signExtend (ext u : Nat) : Int := if u < ext then (u : Int) else (u : Int) - 2 * (ext : Int)

/-- `readSample` (R452) of the BW bytes of one sample. -/
def sampleOfBytes (g : Geometry) (bytes : List Byte) : Int :=
  signExtend g.extremum (leNat (g.endian.order bytes))

/-- `writeSample` (R453): the BW bytes of a sample. -/
def bytesOfSample (g : Geometry) (v : Int) : List Byte :=
  g.endian.order (leBytes g.byteWidth (v % (2 * (g.extremum : Int))).toNat)

/-! ### The stages (R461, R462): a disabled unit passes the sample and its state is not touched -/

/-- CMP's place in the chain. -/
def stageCmp (v : Int) (s : State) : Int × State :=
  if s.cmp.en then
    let r := cmpStep s.geo.extremum s.cmp v s.free
    (r.1, { s with cmp := r.2.1, free := r.2.2 })
  else (v, s)

/-- RVB's place in the chain. -/
def stageRvb (v : Int) (s : State) : Int × State :=
  if s.rvb.en then
    let r := rvbStep s.geo.extremum s.rvb v s.free
    (r.1, { s with rvb := r.2.1, free := r.2.2 })
  else (v, s)

/-- BQ's place in the chain, for a sample of channel `ch`. -/
def stageBq (ch : Nat) (v : Int) (s : State) : Int × State :=
  if s.bq.en then
    let r := bqStep s.geo.extremum s.bq ch v s.free
    (r.1, { s with bq := r.2.1, free := r.2.2 })
  else (v, s)

/-- VOL's place in the chain. -/
def stageVol (v : Int) (s : State) : Int × State :=
  if s.vol.en then (volStep s.geo.extremum s.vol v, s) else (v, s)

/-- `stage_chain(s, c)` (R461): CMP, RVB, BQ, VOL. -/
def stageChain (ch : Nat) (v : Int) (s : State) : Int × State :=
  let r1 := stageCmp v s
  let r2 := stageRvb r1.1 r1.2
  let r3 := stageBq ch r2.1 r2.2
  stageVol r3.1 r3.2

/-! ### Frames -/

/-- The loop of R460 over `count` samples, the first of them sample `j`: `buf` from sample j on,
rewritten, and the state after. Bytes past the last sample stay as they are. -/
def processSamples : Nat → Nat → List Byte → State → List Byte × State
  | 0, _, buf, s => (buf, s)
  | count + 1, j, buf, s =>
    let r := stageChain (j % s.geo.chans) (sampleOfBytes s.geo (buf.take s.geo.byteWidth)) s
    let tail := processSamples count (j + 1) (buf.drop s.geo.byteWidth) r.2
    (bytesOfSample s.geo r.1 ++ tail.1, tail.2)

/-- `process_frames(E)` (R460). -/
def processFrames (e : List Byte) (s : State) : List Byte × State :=
  processSamples (e.length / s.geo.byteWidth) 0 e s

/-! ### PUSH -/

/-- The data path of one PUSH (R450): track the leftover and the payload, process the frames that
enter the chain, emit them. -/
def pushChunk (payload : List Byte) (s : State) : State :=
  let t := track s.geo s.seek (s.seek.left ++ payload)
  let r := processFrames t.1 { s with seek := t.2 }
  r.2.emit r.1

/-- CTL.PUSH (R450). -/
def execCtlPush (payload : List Byte) (s : State) : Result :=
  match s.phase with
  | .idle => raiseErr .notActive s
  | .active => succeed (pushChunk payload s)

end Sys2Proof.Machine
end

