-- ==== Sys2Proof/Machine/Control.lean ====
section
/-!
DEFINITION. The control commands (40_control.md): lifecycle (R400 to R405), geometry (R420 to R423),
registers, events and errors (R430 to R432).
-/

namespace Sys2Proof.Machine

/-! ### Lifecycle -/

/-- CTL.NOP (R400): the completion step alone. -/
def execCtlNop (s : State) : Result := succeed s

/-- CTL.CREATE (R401). -/
def execCtlCreate (s : State) : Result := succeed s.teardown.instantiate

/-- CTL.DESTROY (R402). -/
def execCtlDestroy (s : State) : Result := succeed s.teardown

/-- END's flush (R403): whole frames of the leftover go through the chain; by R153 there are none. -/
def flushLeftover (s : State) : State :=
  let f := s.seek.left.length / s.geo.frameBytes
  if 0 < f then (processFrames (s.seek.left.take (f * s.geo.frameBytes)) s).2 else s

/-- CTL.END (R403). -/
def execCtlEnd (s : State) : Result :=
  match s.phase with
  | .idle => raiseErr .notActive s
  | .active => succeed (flushLeftover s).teardown

/-- CTL.STREAM_ERROR (R404, R1013). -/
def execCtlStreamError (kind : StreamErrorKind) (s : State) : Result :=
  match s.phase with
  | .idle => succeed s
  | .active =>
    match kind with
    | .prematureClose => succeed s.teardown
    | .ioFailure => succeed (s.teardown.post (.error 1))

/-- Every item of state at its reset value (R405, R1100). The port's bytes are the host's, and the
free values already used are not used again. -/
def State.softReset (s : State) : State := { State.reset with port := s.port, free := s.free }

/-- CTL.RESET (R405). -/
def execCtlReset (s : State) : Result := succeed s.softReset

/-! ### Geometry -/

/-- CTL.SET_BITDEPTH (R420). -/
def execCtlSetBitdepth (v : Word) (s : State) : Result :=
  match s.phase with
  | .active => raiseErr .geometryLocked s
  | .idle =>
    match bitdepthOperand v with
    | .error e => raiseErr e s
    | .ok b => succeedReconfig 0x0010 v { s with geo := { s.geo with bitdepth := b } }

/-- CTL.SET_ENDIAN (R421). -/
def execCtlSetEndian (v : Word) (s : State) : Result :=
  match s.phase with
  | .active => raiseErr .geometryLocked s
  | .idle =>
    match endianOperand v with
    | .error e => raiseErr e s
    | .ok b => succeedReconfig 0x0011 v { s with geo := { s.geo with endian := b } }

/-- CTL.SET_RATE (R422): the rate, the BQ coefficients and the two CMP coefficients together. -/
def execCtlSetRate (v : Word) (s : State) : Result :=
  match rateOperand v s.bq.freq with
  | .error e => raiseErr e s
  | .ok r =>
    let fs := toF64 (r.toNat : Int)
    match checkedDesign s.bq.type fs s.bq.freq s.bq.q s.bq.gain with
    | .error e => raiseErr e s
    | .ok c =>
      succeedReconfig 0x0012 r
        { s with
          geo := { s.geo with rate := r }
          bq := { s.bq with coeffs := c }
          cmp :=
            { s.cmp with attackC := coefOf fs s.cmp.attackMs, releaseC := coefOf fs s.cmp.releaseMs } }

/-- CTL.SET_CHANNELS (R423). -/
def execCtlSetChannels (v : Word) (s : State) : Result :=
  match s.phase with
  | .active => raiseErr .geometryLocked s
  | .idle =>
    match channelsOperand v with
    | .error e => raiseErr e s
    | .ok n => succeedReconfig 0x0013 n { s with geo := { s.geo with channels := n } }

/-! ### Registers, events, errors -/

/-- CTL.READ_REG (R430): the register is sampled before this command's completion step. -/
def execCtlReadReg (addr : BitVec 16) (s : State) : Result :=
  match s.readReg addr with
  | none => raiseErr .badRegister s
  | some v => succeed { s with res0 := v }

/-- An event as POP_EVENT shows it in RES0 to RES3 (R1010). -/
def Event.words : Event → Word × Word × Word × Word
  | .reconfig addr value => (1, addr.setWidth 64, value, 0)
  | .seek position sample bytePosition => (2, position, sample, bytePosition)
  | .error code => (3, code, 0, 0)

/-- The state with the four result registers written. -/
def State.withResults (s : State) (w : Word × Word × Word × Word) : State :=
  { s with res0 := w.1, res1 := w.2.1, res2 := w.2.2.1, res3 := w.2.2.2 }

/-- CTL.POP_EVENT (R431). -/
def execCtlPopEvent (s : State) : Result :=
  match s.evq with
  | [] => succeed (s.withResults (0, 0, 0, 0))
  | ev :: evs => succeed (({ s with evq := evs }).withResults ev.words)

/-- CTL.ACK_ERR (R432). -/
def execCtlAckErr (s : State) : Result := succeed s.ackErr

end Sys2Proof.Machine
end

