-- ==== Sys2Proof/Machine/Dispatch.lean ====
section
/-!
DEFINITION. The dispatch of a command to its meaning, one arm per command.
-/

namespace Sys2Proof.Machine

def exec (i : Instr) (s : State) : Host.Outcome State Fault Refusal :=
  match i with
  | .ctlNop => Sys2Proof.Machine.execCtlNop s
  | .ctlCreate => Sys2Proof.Machine.execCtlCreate s
  | .ctlDestroy => Sys2Proof.Machine.execCtlDestroy s
  | .ctlPush payload => Sys2Proof.Machine.execCtlPush payload s
  | .ctlEnd => Sys2Proof.Machine.execCtlEnd s
  | .ctlStreamError kind => Sys2Proof.Machine.execCtlStreamError kind s
  | .ctlReadReg addr => Sys2Proof.Machine.execCtlReadReg addr s
  | .ctlPopEvent => Sys2Proof.Machine.execCtlPopEvent s
  | .ctlAckErr => Sys2Proof.Machine.execCtlAckErr s
  | .ctlSetBitdepth v => Sys2Proof.Machine.execCtlSetBitdepth v s
  | .ctlSetEndian v => Sys2Proof.Machine.execCtlSetEndian v s
  | .ctlSetRate v => Sys2Proof.Machine.execCtlSetRate v s
  | .ctlSetChannels v => Sys2Proof.Machine.execCtlSetChannels v s
  | .ctlReset => Sys2Proof.Machine.execCtlReset s
  | .bqSetType v => Sys2Proof.Machine.execBqSetType v s
  | .bqSetFreq v => Sys2Proof.Machine.execBqSetFreq v s
  | .bqSetQ v => Sys2Proof.Machine.execBqSetQ v s
  | .bqSetGain v => Sys2Proof.Machine.execBqSetGain v s
  | .bqEnable => Sys2Proof.Machine.execBqEnable s
  | .bqDisable => Sys2Proof.Machine.execBqDisable s
  | .cmpSetThreshold v => Sys2Proof.Machine.execCmpSetThreshold v s
  | .cmpSetRatio v => Sys2Proof.Machine.execCmpSetRatio v s
  | .cmpSetAttack v => Sys2Proof.Machine.execCmpSetAttack v s
  | .cmpSetRelease v => Sys2Proof.Machine.execCmpSetRelease v s
  | .cmpSetMakeup v => Sys2Proof.Machine.execCmpSetMakeup v s
  | .cmpSetKnee v => Sys2Proof.Machine.execCmpSetKnee v s
  | .cmpEnable => Sys2Proof.Machine.execCmpEnable s
  | .cmpDisable => Sys2Proof.Machine.execCmpDisable s
  | .rvbSetRoom v => Sys2Proof.Machine.execRvbSetRoom v s
  | .rvbSetDamping v => Sys2Proof.Machine.execRvbSetDamping v s
  | .rvbSetWet v => Sys2Proof.Machine.execRvbSetWet v s
  | .rvbSetDry v => Sys2Proof.Machine.execRvbSetDry v s
  | .rvbEnable => Sys2Proof.Machine.execRvbEnable s
  | .rvbDisable => Sys2Proof.Machine.execRvbDisable s
  | .volSetVolume v => Sys2Proof.Machine.execVolSetVolume v s
  | .volEnable => Sys2Proof.Machine.execVolEnable s
  | .volDisable => Sys2Proof.Machine.execVolDisable s
  | .seekSetDuration v => Sys2Proof.Machine.execSeekSetDuration v s
  | .seekSeek v => Sys2Proof.Machine.execSeekSeek v s

end Sys2Proof.Machine
end

