-- ==== Sys2Proof/Machine/Step.lean ====
section
/-!
DEFINITION. One step of the core: one whole command taken from the command port (10_state.md R101,
30_encoding.md R304, 60_exceptions.md R1040).
-/

namespace Sys2Proof.Machine

/-- One step. The command's bytes are consumed; an illegal encoding raises ILLEGAL_COMMAND (R320);
with no whole command on the port no step is enabled (R1040). -/
def step (s : State) : Host.Outcome State Fault Refusal :=
  match takeCommand s.port with
  | none => if s.port.isEmpty then .fault .portEmpty else .fault .commandCutShort
  | some (c, rest) =>
    match decodeCommand c with
    | .error _ => raiseErr .illegalCommand { s with port := rest }
    | .ok i => exec i { s with port := rest }

/-- The state with an instruction's bytes at the head of the command port, where `step` takes its next
command. -/
def State.withFetchWord (s : State) (nbits w : Nat) : State :=
  { s with port := tableBytes nbits w ++ s.port }

end Sys2Proof.Machine
end

