-- ==== Sys2Proof/Laws/F64.lean ====
section
/-!
SUPPORT. What rounding and the conversions between integers and binary64 do, said once in terms of
quanta: the rounded value, its exactness on representable counts, and the value of `toF64`.
-/

namespace Sys2Proof.Machine

/-! ### Packing and unpacking -/

theorem f64Pack_toNat (neg : Bool) {low : Nat} (h : low < 2 ^ 63) :
    (f64Pack neg low).toNat = (if neg then 2 ^ 63 else 0) + low := by
  unfold f64Pack
  rw [BitVec.toNat_ofNat]
  apply Nat.mod_eq_of_lt
  split <;> omega

/-- The quanta of the 63 low bits of a finite pattern. -/
def magOfLow (low : Nat) : Nat :=
  if low / 2 ^ 52 = 0 then low % 2 ^ 52 else (2 ^ 52 + low % 2 ^ 52) * 2 ^ (low / 2 ^ 52 - 1)

theorem f64Unpack_pack (neg : Bool) {low : Nat} (h : low < 2047 * 2 ^ 52) :
    f64Unpack (f64Pack neg low) = .fin neg (magOfLow low) := by
  have hn := f64Pack_toNat neg (low := low) (by omega)
  have hneg : decide (2 ^ 63 ≤ (f64Pack neg low).toNat) = neg := by
    rw [hn]; cases neg <;> (simp; try omega)
  have he : (f64Pack neg low).toNat / 2 ^ 52 % 2 ^ 11 = low / 2 ^ 52 := by
    rw [hn]; cases neg <;> simp only [if_true, Bool.false_eq_true, if_false] <;> omega
  have hf : (f64Pack neg low).toNat % 2 ^ 52 = low % 2 ^ 52 := by
    rw [hn]; cases neg <;> simp only [if_true, Bool.false_eq_true, if_false] <;> omega
  unfold f64Unpack magOfLow
  simp only [hneg, he, hf]
  rw [if_neg (by omega)]
  split
  · rfl
  · rw [Nat.shiftLeft_eq]

theorem f64Unpack_infOf (neg : Bool) : f64Unpack (f64InfOf neg) = .inf neg := by
  cases neg <;> decide +kernel

/-- The 63 low bits built from a binade and a significand stand for their product. -/
theorem magOfLow_binade {k q : Nat} (h1 : k = 0 ∨ 2 ^ 52 ≤ q) (h2 : q ≤ 2 ^ 53) :
    magOfLow (k * 2 ^ 52 + q) = q * 2 ^ k := by
  unfold magOfLow
  rcases Nat.lt_or_ge q (2 ^ 52) with hq | hq
  · have hk : k = 0 := by omega
    subst hk
    rw [Nat.zero_mul, Nat.zero_add, if_pos (Nat.div_eq_of_lt hq), Nat.mod_eq_of_lt hq, pow_zero,
      Nat.mul_one]
  · rcases Nat.lt_or_ge q (2 ^ 53) with hq' | hq'
    · have hd : (k * 2 ^ 52 + q) / 2 ^ 52 = k + 1 := by omega
      have hm : (k * 2 ^ 52 + q) % 2 ^ 52 = q - 2 ^ 52 := by omega
      rw [if_neg (by omega), hd, hm, show 2 ^ 52 + (q - 2 ^ 52) = q by omega, Nat.add_sub_cancel]
    · have hqe : q = 2 ^ 53 := by omega
      have hd : (k * 2 ^ 52 + q) / 2 ^ 52 = k + 2 := by omega
      have hm : (k * 2 ^ 52 + q) % 2 ^ 52 = 0 := by omega
      rw [if_neg (by omega), hd, hm, hqe]
      have : k + 2 - 1 = k + 1 := by omega
      rw [this, pow_succ]
      omega

/-! ### Rounding -/

theorem roundEven_exact {n unit : Nat} (h : 0 < unit) : roundEven (n * unit) unit = n := by
  unfold roundEven
  simp only [Nat.mul_mod_left, Nat.mul_div_cancel _ h]
  rw [if_neg (by omega)]

/-- `roundEven` is within half a unit: twice the distance is at most the unit. -/
theorem roundEven_bounds (num : Nat) {unit : Nat} (h : 0 < unit) :
    2 * (roundEven num unit * unit) ≤ 2 * num + unit ∧
      2 * num ≤ 2 * (roundEven num unit * unit) + unit := by
  have hd := Nat.div_add_mod num unit
  have hm := Nat.mod_lt num h
  have hc : num / unit * unit = unit * (num / unit) := Nat.mul_comm _ _
  unfold roundEven
  simp only
  split
  · rw [Nat.add_mul, Nat.one_mul]; omega
  · omega

/-- A number with at most `b` bits before the point rounds to at most 2^b. -/
theorem roundEven_le {num unit b : Nat} (hb : num / unit < 2 ^ b) :
    roundEven num unit ≤ 2 ^ b := by
  unfold roundEven
  simp only
  split <;> omega

theorem le_roundEven {num unit b : Nat} (hb : b ≤ num / unit) : b ≤ roundEven num unit := by
  unfold roundEven
  simp only
  split <;> omega

/-- The binade `f64Round` rounds in. -/
def roundBinade (num den : Nat) : Nat := Nat.log2 (num / den) - 52

/-- The significand `f64Round` rounds to. -/
def roundSig (num den : Nat) : Nat := roundEven num (den <<< roundBinade num den)

theorem f64Round_eq (neg : Bool) (num den : Nat) :
    f64Round neg num den =
      f64Pack neg (min (roundBinade num den * 2 ^ 52 + roundSig num den) (2047 * 2 ^ 52)) := rfl

theorem roundSig_le (num den : Nat) : roundSig num den ≤ 2 ^ 53 := by
  unfold roundSig
  rw [Nat.shiftLeft_eq]
  apply roundEven_le
  rw [← Nat.div_div_eq_div_mul, Nat.div_lt_iff_lt_mul (by positivity), ← pow_add]
  refine lt_of_lt_of_le Nat.lt_log2_self (Nat.pow_le_pow_right (by omega) ?_)
  unfold roundBinade
  omega

theorem le_roundSig {num den : Nat} (h : roundBinade num den ≠ 0) : 2 ^ 52 ≤ roundSig num den := by
  unfold roundSig
  rw [Nat.shiftLeft_eq]
  apply le_roundEven
  rw [← Nat.div_div_eq_div_mul, Nat.le_div_iff_mul_le (by positivity), ← pow_add]
  have hq : num / den ≠ 0 := by
    intro h0
    apply h
    simp [roundBinade, h0]
  refine le_trans (Nat.pow_le_pow_right (by omega) ?_) (Nat.log2_self_le hq)
  unfold roundBinade at *
  omega

/-- What a rounding that stays finite gives: the significand times 2 to the binade, in quanta. -/
theorem f64Unpack_round (neg : Bool) {num den : Nat}
    (h : roundBinade num den * 2 ^ 52 + roundSig num den < 2047 * 2 ^ 52) :
    f64Unpack (f64Round neg num den) = .fin neg (roundSig num den * 2 ^ roundBinade num den) := by
  rw [f64Round_eq, Nat.min_eq_left (by omega), f64Unpack_pack neg h, magOfLow_binade ?_ (roundSig_le num den)]
  by_cases h0 : roundBinade num den = 0
  · exact Or.inl h0
  · exact Or.inr (le_roundSig h0)

/-- What a rounding that overflows gives. -/
theorem f64Round_overflow (neg : Bool) {num den : Nat}
    (h : 2047 * 2 ^ 52 ≤ roundBinade num den * 2 ^ 52 + roundSig num den) :
    f64Round neg num den = f64InfOf neg := by
  rw [f64Round_eq, Nat.min_eq_right h]
  rfl

/-- A count of quanta with at most 53 significant bits, below 2^1024, is not changed by rounding. -/
theorem f64Unpack_round_exact (neg : Bool) {m j : Nat} (hm : m < 2 ^ 53) (hj : j ≤ 2045) :
    f64Unpack (f64Round neg (m * 2 ^ j) 1) = .fin neg (m * 2 ^ j) := by
  rcases Nat.eq_zero_or_pos m with rfl | hpos
  · simp only [Nat.zero_mul]
    cases neg <;> decide +kernel
  have hlog : Nat.log2 (m * 2 ^ j / 1) = Nat.log2 m + j := by
    rw [Nat.div_one, Nat.log2_eq_iff (Nat.ne_of_gt (Nat.mul_pos hpos (Nat.two_pow_pos j)))]
    have h1 := Nat.log2_self_le (Nat.ne_of_gt hpos)
    have h2 := Nat.lt_log2_self (n := m)
    constructor
    · rw [pow_add]
      exact Nat.mul_le_mul_right _ h1
    · rw [show Nat.log2 m + j + 1 = Nat.log2 m + 1 + j by omega, pow_add]
      exact Nat.mul_lt_mul_of_pos_right h2 (Nat.two_pow_pos j)
  have hlm : Nat.log2 m ≤ 52 := by
    have : Nat.log2 m < 53 := (Nat.log2_lt (by omega)).2 hm
    omega
  have hk : roundBinade (m * 2 ^ j) 1 = Nat.log2 m + j - 52 := by
    unfold roundBinade; rw [hlog]
  have hkj : roundBinade (m * 2 ^ j) 1 ≤ j := by omega
  have hsig : roundSig (m * 2 ^ j) 1 = m * 2 ^ (j - roundBinade (m * 2 ^ j) 1) := by
    unfold roundSig
    rw [Nat.shiftLeft_eq, Nat.one_mul]
    have hsplit : m * 2 ^ j =
        m * 2 ^ (j - roundBinade (m * 2 ^ j) 1) * 2 ^ roundBinade (m * 2 ^ j) 1 := by
      rw [Nat.mul_assoc, ← pow_add]
      congr 2
      omega
    conv_lhs => arg 1; rw [hsplit]
    exact roundEven_exact (by positivity)
  have hlow : roundSig (m * 2 ^ j) 1 < 2 ^ 53 := by
    rw [hsig]
    rcases Nat.eq_zero_or_pos (roundBinade (m * 2 ^ j) 1) with h0 | h0
    · have hle : Nat.log2 m + j ≤ 52 := by omega
      rw [h0, Nat.sub_zero]
      calc m * 2 ^ j < 2 ^ (Nat.log2 m + 1) * 2 ^ j :=
            Nat.mul_lt_mul_of_pos_right Nat.lt_log2_self (by positivity)
        _ = 2 ^ (Nat.log2 m + 1 + j) := by rw [← pow_add]
        _ ≤ 2 ^ 53 := Nat.pow_le_pow_right (by omega) (by omega)
    · have he : j - roundBinade (m * 2 ^ j) 1 = 52 - Nat.log2 m := by omega
      rw [he]
      calc m * 2 ^ (52 - Nat.log2 m) < 2 ^ (Nat.log2 m + 1) * 2 ^ (52 - Nat.log2 m) :=
            Nat.mul_lt_mul_of_pos_right Nat.lt_log2_self (by positivity)
        _ = 2 ^ (Nat.log2 m + 1 + (52 - Nat.log2 m)) := by rw [← pow_add]
        _ ≤ 2 ^ 53 := Nat.pow_le_pow_right (by omega) (by omega)
  rw [f64Unpack_round neg (by omega), hsig, Nat.mul_assoc, ← pow_add]
  congr 3
  omega

/-! ### Integers -/

/-- `toF64` of an integer up to 2^53 in magnitude is that integer. -/
theorem f64Unpack_toF64 {i : Int} (h : i.natAbs ≤ 2 ^ 53) :
    f64Unpack (toF64 i) = .fin (decide (i < 0)) (i.natAbs * 2 ^ 1074) := by
  unfold toF64
  rw [if_pos h, Nat.shiftLeft_eq]
  rcases Nat.lt_or_ge i.natAbs (2 ^ 53) with hlt | hge
  · exact f64Unpack_round_exact (j := 1074) _ hlt (by decide)
  · have he : ∀ k, i.natAbs * 2 ^ k = 1 * 2 ^ (53 + k) := fun k => by
      rw [show i.natAbs = 2 ^ 53 by omega, ← pow_add, Nat.one_mul]
    rw [he 1074]
    exact f64Unpack_round_exact _ (by omega) (by omega)

/-- The quanta of a positive number's low bits are not 0. -/
theorem magOfLow_pos {low : Nat} (h : 0 < low) : 0 < magOfLow low := by
  unfold magOfLow
  split
  · omega
  · exact Nat.mul_pos (by omega) (Nat.two_pow_pos _)

/-- Every integer converts to a finite number of its sign, 0 to 0 alone (R14, R511). -/
theorem toF64_cases (i : Int) :
    ∃ m, f64Unpack (toF64 i) = .fin (decide (i < 0)) m ∧ (i ≠ 0 → 0 < m) := by
  by_cases h : i.natAbs ≤ 2 ^ 53
  · refine ⟨_, f64Unpack_toF64 h, fun h0 => Nat.mul_pos (by omega) (Nat.two_pow_pos _)⟩
  · have hs := Nat.mod_lt (Config.toF64Seed i) (y := 2047 * 2 ^ 52 - 1) (by omega)
    have ht : toF64 i =
        f64Pack (decide (i < 0)) (Config.toF64Seed i % (2047 * 2 ^ 52 - 1) + 1) := by
      unfold toF64 Config.toF64Beyond f64Pack
      rw [if_neg h]
      simp only [decide_eq_true_eq]
    rw [ht, f64Unpack_pack _ (by omega)]
    exact ⟨_, rfl, fun _ => magOfLow_pos (by omega)⟩

theorem f64IsFinite_toF64 (i : Int) : f64IsFinite (toF64 i) = true := by
  obtain ⟨m, h, -⟩ := toF64_cases i
  unfold f64IsFinite; rw [h]

theorem flt_zero_toF64 {i : Int} (h : 0 < i) : flt f64Zero (toF64 i) = true := by
  obtain ⟨m, hu, hm⟩ := toF64_cases i
  have h0 : f64Key f64Zero = some 0 := by decide +kernel
  have hk : f64Key (toF64 i) = some (m : Int) := by
    unfold f64Key; rw [hu, decide_eq_false (by omega)]; rfl
  have := hm (by omega)
  unfold flt; rw [h0, hk]
  exact decide_eq_true (by omega)

theorem f64IsNaN_toF64 {i : Int} (h : i.natAbs ≤ 2 ^ 53) : f64IsNaN (toF64 i) = false := by
  unfold f64IsNaN; rw [f64Unpack_toF64 h]

theorem signedMag_mul (s : Bool) (m n : Nat) : signedMag s (m * n) = signedMag s m * n := by
  cases s <;> simp [signedMag]

theorem signedMag_natAbs (i : Int) : signedMag (decide (i < 0)) i.natAbs = i := by
  unfold signedMag
  split <;> rename_i h <;> simp only [decide_eq_true_eq] at h <;> omega

/-- The place of `toF64` on the number line. -/
theorem f64Key_toF64 {i : Int} (h : i.natAbs ≤ 2 ^ 53) :
    f64Key (toF64 i) = some (i * 2 ^ 1074) := by
  unfold f64Key
  rw [f64Unpack_toF64 h]
  generalize (1074 : Nat) = k
  simp only [Option.some.injEq]
  rw [signedMag_mul, signedMag_natAbs]
  push_cast
  rfl

theorem f64Trunc_toF64 {i : Int} (h : i.natAbs ≤ 2 ^ 53) : f64Trunc (toF64 i) = i := by
  unfold f64Trunc
  rw [f64Unpack_toF64 h]
  generalize (1074 : Nat) = k
  simp only [Nat.shiftRight_eq_div_pow, Nat.mul_div_cancel _ (Nat.two_pow_pos k)]
  exact signedMag_natAbs i

/-! ### NaN, the number line, clampF and settle -/

theorem f64IsNaN_iff_key {x : F64} : f64IsNaN x = true ↔ f64Key x = none := by
  unfold f64IsNaN f64Key
  cases f64Unpack x <;> simp

/-- A number that is no NaN has a place on the number line. -/
theorem f64Key_of_not_nan {x : F64} (h : f64IsNaN x = false) : ∃ a, f64Key x = some a := by
  cases hk : f64Key x with
  | none => rw [f64IsNaN_iff_key.2 hk] at h; cases h
  | some a => exact ⟨a, rfl⟩

theorem flt_eq_of_keys {x y : F64} {a b : Int} (hx : f64Key x = some a) (hy : f64Key y = some b) :
    flt x y = decide (a < b) := by unfold flt; rw [hx, hy]

theorem fle_eq_of_keys {x y : F64} {a b : Int} (hx : f64Key x = some a) (hy : f64Key y = some b) :
    fle x y = decide (a ≤ b) := by unfold fle; rw [hx, hy]

theorem feq_eq_of_keys {x y : F64} {a b : Int} (hx : f64Key x = some a) (hy : f64Key y = some b) :
    feq x y = decide (a = b) := by unfold feq; rw [hx, hy]

/-- Everything `clampF` can give for a number that is no NaN. -/
theorem clampF_cases {v lo hi : F64} (hv : f64IsNaN v = false) (hlo : f64IsNaN lo = false)
    (hhi : f64IsNaN hi = false) :
    (clampF v lo hi = lo ∧ fle v lo = true) ∨ (clampF v lo hi = hi ∧ flt lo v = true ∧ fle hi v = true) ∨
      (clampF v lo hi = v ∧ flt lo v = true ∧ flt v hi = true) := by
  obtain ⟨a, ha⟩ := f64Key_of_not_nan hv
  obtain ⟨b, hb⟩ := f64Key_of_not_nan hlo
  obtain ⟨c, hc⟩ := f64Key_of_not_nan hhi
  simp only [clampF, fle_eq_of_keys ha hb, fle_eq_of_keys hc ha, flt_eq_of_keys hb ha,
    flt_eq_of_keys ha hc, decide_eq_true_eq]
  split
  · simp_all
  · split
    · right; left; exact ⟨rfl, by omega, by assumption⟩
    · right; right; exact ⟨rfl, by omega, by omega⟩

theorem settle_of_not_nan {v : F64} (h : f64IsNaN v = false) (n : Nat) : settle v n = (v, n) := by
  simp [settle, h]

theorem settle_of_nan {v : F64} (h : f64IsNaN v = true) (n : Nat) :
    settle v n = (Config.freeNan n, n + 1) := by
  simp [settle, h]

theorem quant_of_nan {v : F64} (h : f64IsNaN v = true) (ext : Nat) : quant ext v = 0 := by
  simp [quant, h]

end Sys2Proof.Machine
end

