-- ==== Sys2Proof/Laws/Memory.lean ====
section
/-!
SUPPORT. The laws of a cell store: read after write, every other cell kept, and the canonical form
kept by every write, so that equal stores are equal data.
-/

namespace Sys2Proof.Machine

@[simp] theorem Memory.read_nil (k : Nat) : Memory.read [] k = 0 := rfl

theorem Memory.read_cons (a : Nat) (v : F64) (m : Memory) (k : Nat) :
    Memory.read ((a, v) :: m) k = if a = k then v else Memory.read m k := rfl

@[simp] theorem Memory.wf_nil : Memory.wf [] := ⟨List.Pairwise.nil, by simp⟩

theorem Memory.wf_cons {a : Nat} {v : F64} {m : Memory} :
    Memory.wf ((a, v) :: m) ↔ (∀ c ∈ m, a < c.1) ∧ v ≠ 0 ∧ Memory.wf m := by
  simp only [Memory.wf, List.pairwise_cons, List.mem_cons, forall_eq_or_imp]
  tauto

/-- A cell below every listed one holds +0.0. -/
theorem Memory.read_below {m : Memory} {k : Nat} (h : ∀ c ∈ m, k < c.1) : m.read k = 0 := by
  induction m with
  | nil => rfl
  | cons c m ih =>
    obtain ⟨a, v⟩ := c
    have ha : k < a := h (a, v) (by simp)
    rw [Memory.read_cons, if_neg (by omega)]
    exact ih fun c hc => h c (by simp [hc])

/-- The addresses a write leaves: the written one, and listed ones. -/
theorem Memory.mem_write {m : Memory} {k : Nat} {v : F64} {c : Nat × F64} (h : c ∈ m.write k v) :
    c = (k, v) ∨ c ∈ m := by
  induction m with
  | nil =>
    simp only [Memory.write] at h
    split at h <;> simp_all
  | cons d m ih =>
    obtain ⟨a, w⟩ := d
    simp only [Memory.write] at h
    split at h
    · split at h <;> simp_all
    · split at h
      · split at h <;> (simp_all; try tauto)
      · rcases List.mem_cons.1 h with h | h
        · exact Or.inr (by simp [h])
        · rcases ih h with h | h
          · exact Or.inl h
          · exact Or.inr (by simp [h])

/-- A write keeps the canonical form. -/
theorem Memory.wf_write {m : Memory} (h : m.wf) (k : Nat) (v : F64) : (m.write k v).wf := by
  induction m with
  | nil =>
    simp only [Memory.write]
    split
    · exact Memory.wf_nil
    · exact Memory.wf_cons.2 ⟨by simp, by assumption, Memory.wf_nil⟩
  | cons d m ih =>
    obtain ⟨a, w⟩ := d
    obtain ⟨hlt, hw, hm⟩ := Memory.wf_cons.1 h
    simp only [Memory.write]
    split
    · split
      · exact h
      · refine Memory.wf_cons.2 ⟨?_, by assumption, h⟩
        intro c hc
        rcases List.mem_cons.1 hc with rfl | hc
        · assumption
        · have := hlt c hc
          omega
    · split
      · subst_vars
        split
        · exact hm
        · exact Memory.wf_cons.2 ⟨hlt, by assumption, hm⟩
      · refine Memory.wf_cons.2 ⟨?_, hw, ih hm⟩
        intro c hc
        rcases Memory.mem_write hc with rfl | hc
        · simp only
          omega
        · exact hlt c hc

/-- Reading the written cell. -/
theorem Memory.read_write_same {m : Memory} (h : m.wf) (k : Nat) (v : F64) :
    (m.write k v).read k = v := by
  induction m with
  | nil =>
    simp only [Memory.write]
    split <;> simp_all [Memory.read]
  | cons d m ih =>
    obtain ⟨a, w⟩ := d
    obtain ⟨hlt, -, hm⟩ := Memory.wf_cons.1 h
    simp only [Memory.write]
    split
    · split
      · subst_vars
        rw [Memory.read_cons, if_neg (by omega)]
        exact Memory.read_below fun c hc => by have := hlt c hc; omega
      · simp [Memory.read]
    · split
      · subst_vars
        split
        · subst_vars
          exact Memory.read_below hlt
        · simp [Memory.read]
      · rw [Memory.read_cons, if_neg (by omega)]
        exact ih hm

/-- Reading any other cell. -/
theorem Memory.read_write_other (m : Memory) {k j : Nat} (v : F64) (hj : j ≠ k) :
    (m.write k v).read j = m.read j := by
  induction m with
  | nil =>
    simp only [Memory.write]
    split
    · rfl
    · rw [Memory.read_cons, if_neg (Ne.symm hj)]
  | cons d m ih =>
    obtain ⟨a, w⟩ := d
    simp only [Memory.write]
    split
    · split
      · rfl
      · rw [Memory.read_cons, if_neg (Ne.symm hj)]
    · split
      · subst_vars
        split
        · rw [Memory.read_cons, if_neg (Ne.symm hj)]
        · rw [Memory.read_cons, Memory.read_cons, if_neg (Ne.symm hj), if_neg (Ne.symm hj)]
      · rw [Memory.read_cons, Memory.read_cons, ih]

/-- Stores in canonical form that read alike are the same data. -/
theorem Memory.ext_of_read {m n : Memory} (hm : m.wf) (hn : n.wf) (h : ∀ k, m.read k = n.read k) :
    m = n := by
  induction m generalizing n with
  | nil =>
    cases n with
    | nil => rfl
    | cons d n =>
      obtain ⟨a, v⟩ := d
      have := h a
      simp only [Memory.read, if_true] at this
      exact absurd this.symm (Memory.wf_cons.1 hn).2.1
  | cons c m ih =>
    obtain ⟨a, v⟩ := c
    obtain ⟨hlt, hv, hm'⟩ := Memory.wf_cons.1 hm
    cases n with
    | nil =>
      have := h a
      simp only [Memory.read, if_true] at this
      exact absurd this hv
    | cons d n =>
      obtain ⟨b, w⟩ := d
      obtain ⟨hlt', hw, hn'⟩ := Memory.wf_cons.1 hn
      have hab : a = b := by
        rcases Nat.lt_trichotomy a b with hab | hab | hab
        · have h1 := h a
          rw [Memory.read_cons, if_pos rfl, Memory.read_cons, if_neg (by omega),
            Memory.read_below fun c hc => by have := hlt' c hc; omega] at h1
          exact absurd h1 hv
        · exact hab
        · have h1 := h b
          rw [Memory.read_cons, if_neg (by omega), Memory.read_cons, if_pos rfl,
            Memory.read_below fun c hc => by have := hlt c hc; omega] at h1
          exact absurd h1.symm hw
      subst hab
      have hvw : v = w := by simpa [Memory.read] using h a
      subst hvw
      rw [ih hm' hn' fun k => ?_]
      by_cases hk : a = k
      · subst hk
        rw [Memory.read_below hlt, Memory.read_below hlt']
      · simpa [Memory.read, hk] using h k

end Sys2Proof.Machine
end

