-- ==== Sys2Proof/Laws/State.lean ====
section
/-!
SUPPORT. One lemma per field per named update of the state, so that no later proof unfolds a record
update.
-/

namespace Sys2Proof.Machine

/-! ### `State.post` -/

@[simp] theorem State.post_phase (s : State) (ev : Event) : (s.post ev).phase = s.phase := rfl
@[simp] theorem State.post_lastErr (s : State) (ev : Event) : (s.post ev).lastErr = s.lastErr := rfl
@[simp] theorem State.post_errSticky (s : State) (ev : Event) : (s.post ev).errSticky = s.errSticky := rfl
@[simp] theorem State.post_evq (s : State) (ev : Event) : (s.post ev).evq = s.evq ++ [ev] := rfl
@[simp] theorem State.post_res0 (s : State) (ev : Event) : (s.post ev).res0 = s.res0 := rfl
@[simp] theorem State.post_res1 (s : State) (ev : Event) : (s.post ev).res1 = s.res1 := rfl
@[simp] theorem State.post_res2 (s : State) (ev : Event) : (s.post ev).res2 = s.res2 := rfl
@[simp] theorem State.post_res3 (s : State) (ev : Event) : (s.post ev).res3 = s.res3 := rfl
@[simp] theorem State.post_out (s : State) (ev : Event) : (s.post ev).out = s.out := rfl
@[simp] theorem State.post_geo (s : State) (ev : Event) : (s.post ev).geo = s.geo := rfl
@[simp] theorem State.post_bq (s : State) (ev : Event) : (s.post ev).bq = s.bq := rfl
@[simp] theorem State.post_cmp (s : State) (ev : Event) : (s.post ev).cmp = s.cmp := rfl
@[simp] theorem State.post_rvb (s : State) (ev : Event) : (s.post ev).rvb = s.rvb := rfl
@[simp] theorem State.post_vol (s : State) (ev : Event) : (s.post ev).vol = s.vol := rfl
@[simp] theorem State.post_seek (s : State) (ev : Event) : (s.post ev).seek = s.seek := rfl
@[simp] theorem State.post_port (s : State) (ev : Event) : (s.post ev).port = s.port := rfl
@[simp] theorem State.post_free (s : State) (ev : Event) : (s.post ev).free = s.free := rfl

/-! ### `State.emit` -/

@[simp] theorem State.emit_phase (s : State) (bytes : List Byte) : (s.emit bytes).phase = s.phase := rfl
@[simp] theorem State.emit_lastErr (s : State) (bytes : List Byte) : (s.emit bytes).lastErr = s.lastErr := rfl
@[simp] theorem State.emit_errSticky (s : State) (bytes : List Byte) : (s.emit bytes).errSticky = s.errSticky := rfl
@[simp] theorem State.emit_evq (s : State) (bytes : List Byte) : (s.emit bytes).evq = s.evq := rfl
@[simp] theorem State.emit_res0 (s : State) (bytes : List Byte) : (s.emit bytes).res0 = s.res0 := rfl
@[simp] theorem State.emit_res1 (s : State) (bytes : List Byte) : (s.emit bytes).res1 = s.res1 := rfl
@[simp] theorem State.emit_res2 (s : State) (bytes : List Byte) : (s.emit bytes).res2 = s.res2 := rfl
@[simp] theorem State.emit_res3 (s : State) (bytes : List Byte) : (s.emit bytes).res3 = s.res3 := rfl
@[simp] theorem State.emit_out (s : State) (bytes : List Byte) : (s.emit bytes).out = s.out ++ bytes := rfl
@[simp] theorem State.emit_geo (s : State) (bytes : List Byte) : (s.emit bytes).geo = s.geo := rfl
@[simp] theorem State.emit_bq (s : State) (bytes : List Byte) : (s.emit bytes).bq = s.bq := rfl
@[simp] theorem State.emit_cmp (s : State) (bytes : List Byte) : (s.emit bytes).cmp = s.cmp := rfl
@[simp] theorem State.emit_rvb (s : State) (bytes : List Byte) : (s.emit bytes).rvb = s.rvb := rfl
@[simp] theorem State.emit_vol (s : State) (bytes : List Byte) : (s.emit bytes).vol = s.vol := rfl
@[simp] theorem State.emit_seek (s : State) (bytes : List Byte) : (s.emit bytes).seek = s.seek := rfl
@[simp] theorem State.emit_port (s : State) (bytes : List Byte) : (s.emit bytes).port = s.port := rfl
@[simp] theorem State.emit_free (s : State) (bytes : List Byte) : (s.emit bytes).free = s.free := rfl

/-! ### `State.complete` -/

@[simp] theorem State.complete_phase (s : State) (code : ErrCode) : (s.complete code).phase = s.phase := rfl
@[simp] theorem State.complete_lastErr (s : State) (code : ErrCode) : (s.complete code).lastErr = code := rfl
@[simp] theorem State.complete_errSticky (s : State) (code : ErrCode) : (s.complete code).errSticky = (s.errSticky || decide (code ≠ .ok)) := rfl
@[simp] theorem State.complete_evq (s : State) (code : ErrCode) : (s.complete code).evq = s.evq := rfl
@[simp] theorem State.complete_res0 (s : State) (code : ErrCode) : (s.complete code).res0 = s.res0 := rfl
@[simp] theorem State.complete_res1 (s : State) (code : ErrCode) : (s.complete code).res1 = s.res1 := rfl
@[simp] theorem State.complete_res2 (s : State) (code : ErrCode) : (s.complete code).res2 = s.res2 := rfl
@[simp] theorem State.complete_res3 (s : State) (code : ErrCode) : (s.complete code).res3 = s.res3 := rfl
@[simp] theorem State.complete_out (s : State) (code : ErrCode) : (s.complete code).out = s.out := rfl
@[simp] theorem State.complete_geo (s : State) (code : ErrCode) : (s.complete code).geo = s.geo := rfl
@[simp] theorem State.complete_bq (s : State) (code : ErrCode) : (s.complete code).bq = s.bq := rfl
@[simp] theorem State.complete_cmp (s : State) (code : ErrCode) : (s.complete code).cmp = s.cmp := rfl
@[simp] theorem State.complete_rvb (s : State) (code : ErrCode) : (s.complete code).rvb = s.rvb := rfl
@[simp] theorem State.complete_vol (s : State) (code : ErrCode) : (s.complete code).vol = s.vol := rfl
@[simp] theorem State.complete_seek (s : State) (code : ErrCode) : (s.complete code).seek = s.seek := rfl
@[simp] theorem State.complete_port (s : State) (code : ErrCode) : (s.complete code).port = s.port := rfl
@[simp] theorem State.complete_free (s : State) (code : ErrCode) : (s.complete code).free = s.free := rfl

/-! ### `State.ackErr` -/

@[simp] theorem State.ackErr_phase (s : State) : s.ackErr.phase = s.phase := rfl
@[simp] theorem State.ackErr_lastErr (s : State) : s.ackErr.lastErr = s.lastErr := rfl
@[simp] theorem State.ackErr_errSticky (s : State) : s.ackErr.errSticky = false := rfl
@[simp] theorem State.ackErr_evq (s : State) : s.ackErr.evq = s.evq := rfl
@[simp] theorem State.ackErr_res0 (s : State) : s.ackErr.res0 = s.res0 := rfl
@[simp] theorem State.ackErr_res1 (s : State) : s.ackErr.res1 = s.res1 := rfl
@[simp] theorem State.ackErr_res2 (s : State) : s.ackErr.res2 = s.res2 := rfl
@[simp] theorem State.ackErr_res3 (s : State) : s.ackErr.res3 = s.res3 := rfl
@[simp] theorem State.ackErr_out (s : State) : s.ackErr.out = s.out := rfl
@[simp] theorem State.ackErr_geo (s : State) : s.ackErr.geo = s.geo := rfl
@[simp] theorem State.ackErr_bq (s : State) : s.ackErr.bq = s.bq := rfl
@[simp] theorem State.ackErr_cmp (s : State) : s.ackErr.cmp = s.cmp := rfl
@[simp] theorem State.ackErr_rvb (s : State) : s.ackErr.rvb = s.rvb := rfl
@[simp] theorem State.ackErr_vol (s : State) : s.ackErr.vol = s.vol := rfl
@[simp] theorem State.ackErr_seek (s : State) : s.ackErr.seek = s.seek := rfl
@[simp] theorem State.ackErr_port (s : State) : s.ackErr.port = s.port := rfl
@[simp] theorem State.ackErr_free (s : State) : s.ackErr.free = s.free := rfl

/-! ### `State.instantiate` -/

@[simp] theorem State.instantiate_phase (s : State) : s.instantiate.phase = .active := rfl
@[simp] theorem State.instantiate_lastErr (s : State) : s.instantiate.lastErr = s.lastErr := rfl
@[simp] theorem State.instantiate_errSticky (s : State) : s.instantiate.errSticky = s.errSticky := rfl
@[simp] theorem State.instantiate_evq (s : State) : s.instantiate.evq = s.evq := rfl
@[simp] theorem State.instantiate_res0 (s : State) : s.instantiate.res0 = s.res0 := rfl
@[simp] theorem State.instantiate_res1 (s : State) : s.instantiate.res1 = s.res1 := rfl
@[simp] theorem State.instantiate_res2 (s : State) : s.instantiate.res2 = s.res2 := rfl
@[simp] theorem State.instantiate_res3 (s : State) : s.instantiate.res3 = s.res3 := rfl
@[simp] theorem State.instantiate_out (s : State) : s.instantiate.out = s.out := rfl
@[simp] theorem State.instantiate_geo (s : State) : s.instantiate.geo = s.geo := rfl
@[simp] theorem State.instantiate_bq (s : State) : s.instantiate.bq = s.bq.cleared := rfl
@[simp] theorem State.instantiate_cmp (s : State) : s.instantiate.cmp = s.cmp.cleared := rfl
@[simp] theorem State.instantiate_rvb (s : State) : s.instantiate.rvb = s.rvb.allocated s.geo.lineLen := rfl
@[simp] theorem State.instantiate_vol (s : State) : s.instantiate.vol = s.vol := rfl
@[simp] theorem State.instantiate_seek (s : State) : s.instantiate.seek = s.seek.cleared := rfl
@[simp] theorem State.instantiate_port (s : State) : s.instantiate.port = s.port := rfl
@[simp] theorem State.instantiate_free (s : State) : s.instantiate.free = s.free := rfl

/-! ### `State.withResults` -/

@[simp] theorem State.withResults_phase (s : State) (w : Word × Word × Word × Word) : (s.withResults w).phase = s.phase := rfl
@[simp] theorem State.withResults_lastErr (s : State) (w : Word × Word × Word × Word) : (s.withResults w).lastErr = s.lastErr := rfl
@[simp] theorem State.withResults_errSticky (s : State) (w : Word × Word × Word × Word) : (s.withResults w).errSticky = s.errSticky := rfl
@[simp] theorem State.withResults_evq (s : State) (w : Word × Word × Word × Word) : (s.withResults w).evq = s.evq := rfl
@[simp] theorem State.withResults_res0 (s : State) (w : Word × Word × Word × Word) : (s.withResults w).res0 = w.1 := rfl
@[simp] theorem State.withResults_res1 (s : State) (w : Word × Word × Word × Word) : (s.withResults w).res1 = w.2.1 := rfl
@[simp] theorem State.withResults_res2 (s : State) (w : Word × Word × Word × Word) : (s.withResults w).res2 = w.2.2.1 := rfl
@[simp] theorem State.withResults_res3 (s : State) (w : Word × Word × Word × Word) : (s.withResults w).res3 = w.2.2.2 := rfl
@[simp] theorem State.withResults_out (s : State) (w : Word × Word × Word × Word) : (s.withResults w).out = s.out := rfl
@[simp] theorem State.withResults_geo (s : State) (w : Word × Word × Word × Word) : (s.withResults w).geo = s.geo := rfl
@[simp] theorem State.withResults_bq (s : State) (w : Word × Word × Word × Word) : (s.withResults w).bq = s.bq := rfl
@[simp] theorem State.withResults_cmp (s : State) (w : Word × Word × Word × Word) : (s.withResults w).cmp = s.cmp := rfl
@[simp] theorem State.withResults_rvb (s : State) (w : Word × Word × Word × Word) : (s.withResults w).rvb = s.rvb := rfl
@[simp] theorem State.withResults_vol (s : State) (w : Word × Word × Word × Word) : (s.withResults w).vol = s.vol := rfl
@[simp] theorem State.withResults_seek (s : State) (w : Word × Word × Word × Word) : (s.withResults w).seek = s.seek := rfl
@[simp] theorem State.withResults_port (s : State) (w : Word × Word × Word × Word) : (s.withResults w).port = s.port := rfl
@[simp] theorem State.withResults_free (s : State) (w : Word × Word × Word × Word) : (s.withResults w).free = s.free := rfl

/-! ### `State.hostSend` -/

@[simp] theorem State.hostSend_phase (s : State) (bytes : List Byte) : (s.hostSend bytes).phase = s.phase := rfl
@[simp] theorem State.hostSend_lastErr (s : State) (bytes : List Byte) : (s.hostSend bytes).lastErr = s.lastErr := rfl
@[simp] theorem State.hostSend_errSticky (s : State) (bytes : List Byte) : (s.hostSend bytes).errSticky = s.errSticky := rfl
@[simp] theorem State.hostSend_evq (s : State) (bytes : List Byte) : (s.hostSend bytes).evq = s.evq := rfl
@[simp] theorem State.hostSend_res0 (s : State) (bytes : List Byte) : (s.hostSend bytes).res0 = s.res0 := rfl
@[simp] theorem State.hostSend_res1 (s : State) (bytes : List Byte) : (s.hostSend bytes).res1 = s.res1 := rfl
@[simp] theorem State.hostSend_res2 (s : State) (bytes : List Byte) : (s.hostSend bytes).res2 = s.res2 := rfl
@[simp] theorem State.hostSend_res3 (s : State) (bytes : List Byte) : (s.hostSend bytes).res3 = s.res3 := rfl
@[simp] theorem State.hostSend_out (s : State) (bytes : List Byte) : (s.hostSend bytes).out = s.out := rfl
@[simp] theorem State.hostSend_geo (s : State) (bytes : List Byte) : (s.hostSend bytes).geo = s.geo := rfl
@[simp] theorem State.hostSend_bq (s : State) (bytes : List Byte) : (s.hostSend bytes).bq = s.bq := rfl
@[simp] theorem State.hostSend_cmp (s : State) (bytes : List Byte) : (s.hostSend bytes).cmp = s.cmp := rfl
@[simp] theorem State.hostSend_rvb (s : State) (bytes : List Byte) : (s.hostSend bytes).rvb = s.rvb := rfl
@[simp] theorem State.hostSend_vol (s : State) (bytes : List Byte) : (s.hostSend bytes).vol = s.vol := rfl
@[simp] theorem State.hostSend_seek (s : State) (bytes : List Byte) : (s.hostSend bytes).seek = s.seek := rfl
@[simp] theorem State.hostSend_port (s : State) (bytes : List Byte) : (s.hostSend bytes).port = s.port ++ bytes := rfl
@[simp] theorem State.hostSend_free (s : State) (bytes : List Byte) : (s.hostSend bytes).free = s.free := rfl

/-! ### `State.hostDrain` -/

@[simp] theorem State.hostDrain_phase (s : State) (n : Nat) : (s.hostDrain n).phase = s.phase := rfl
@[simp] theorem State.hostDrain_lastErr (s : State) (n : Nat) : (s.hostDrain n).lastErr = s.lastErr := rfl
@[simp] theorem State.hostDrain_errSticky (s : State) (n : Nat) : (s.hostDrain n).errSticky = s.errSticky := rfl
@[simp] theorem State.hostDrain_evq (s : State) (n : Nat) : (s.hostDrain n).evq = s.evq := rfl
@[simp] theorem State.hostDrain_res0 (s : State) (n : Nat) : (s.hostDrain n).res0 = s.res0 := rfl
@[simp] theorem State.hostDrain_res1 (s : State) (n : Nat) : (s.hostDrain n).res1 = s.res1 := rfl
@[simp] theorem State.hostDrain_res2 (s : State) (n : Nat) : (s.hostDrain n).res2 = s.res2 := rfl
@[simp] theorem State.hostDrain_res3 (s : State) (n : Nat) : (s.hostDrain n).res3 = s.res3 := rfl
@[simp] theorem State.hostDrain_out (s : State) (n : Nat) : (s.hostDrain n).out = s.out.drop n := rfl
@[simp] theorem State.hostDrain_geo (s : State) (n : Nat) : (s.hostDrain n).geo = s.geo := rfl
@[simp] theorem State.hostDrain_bq (s : State) (n : Nat) : (s.hostDrain n).bq = s.bq := rfl
@[simp] theorem State.hostDrain_cmp (s : State) (n : Nat) : (s.hostDrain n).cmp = s.cmp := rfl
@[simp] theorem State.hostDrain_rvb (s : State) (n : Nat) : (s.hostDrain n).rvb = s.rvb := rfl
@[simp] theorem State.hostDrain_vol (s : State) (n : Nat) : (s.hostDrain n).vol = s.vol := rfl
@[simp] theorem State.hostDrain_seek (s : State) (n : Nat) : (s.hostDrain n).seek = s.seek := rfl
@[simp] theorem State.hostDrain_port (s : State) (n : Nat) : (s.hostDrain n).port = s.port := rfl
@[simp] theorem State.hostDrain_free (s : State) (n : Nat) : (s.hostDrain n).free = s.free := rfl

/-! ### `State.softReset`: every field but the two of the model is its reset value -/

@[simp] theorem State.softReset_phase (s : State) : s.softReset.phase = State.reset.phase := rfl
@[simp] theorem State.softReset_lastErr (s : State) : s.softReset.lastErr = State.reset.lastErr := rfl
@[simp] theorem State.softReset_errSticky (s : State) : s.softReset.errSticky = State.reset.errSticky := rfl
@[simp] theorem State.softReset_evq (s : State) : s.softReset.evq = State.reset.evq := rfl
@[simp] theorem State.softReset_res0 (s : State) : s.softReset.res0 = State.reset.res0 := rfl
@[simp] theorem State.softReset_res1 (s : State) : s.softReset.res1 = State.reset.res1 := rfl
@[simp] theorem State.softReset_res2 (s : State) : s.softReset.res2 = State.reset.res2 := rfl
@[simp] theorem State.softReset_res3 (s : State) : s.softReset.res3 = State.reset.res3 := rfl
@[simp] theorem State.softReset_out (s : State) : s.softReset.out = State.reset.out := rfl
@[simp] theorem State.softReset_geo (s : State) : s.softReset.geo = State.reset.geo := rfl
@[simp] theorem State.softReset_bq (s : State) : s.softReset.bq = State.reset.bq := rfl
@[simp] theorem State.softReset_cmp (s : State) : s.softReset.cmp = State.reset.cmp := rfl
@[simp] theorem State.softReset_rvb (s : State) : s.softReset.rvb = State.reset.rvb := rfl
@[simp] theorem State.softReset_vol (s : State) : s.softReset.vol = State.reset.vol := rfl
@[simp] theorem State.softReset_seek (s : State) : s.softReset.seek = State.reset.seek := rfl
@[simp] theorem State.softReset_port (s : State) : s.softReset.port = s.port := rfl
@[simp] theorem State.softReset_free (s : State) : s.softReset.free = s.free := rfl

/-! ### `State.teardown`: what it keeps in either phase, and what it leaves -/

theorem State.teardown_of_idle {s : State} (h : s.phase = .idle) : s.teardown = s := by
  unfold State.teardown; rw [h]

theorem State.teardown_of_active {s : State} (h : s.phase = .active) :
    s.teardown =
      { s with
        phase := .idle, bq := s.bq.cleared, cmp := s.cmp.cleared, rvb := s.rvb.allocated 0
        seek := s.seek.cleared } := by
  unfold State.teardown; rw [h]

@[simp] theorem State.teardown_phase (s : State) : s.teardown.phase = .idle := by
  unfold State.teardown; split <;> simp_all

@[simp] theorem State.teardown_lastErr (s : State) : s.teardown.lastErr = s.lastErr := by
  unfold State.teardown; split <;> rfl
@[simp] theorem State.teardown_errSticky (s : State) : s.teardown.errSticky = s.errSticky := by
  unfold State.teardown; split <;> rfl
@[simp] theorem State.teardown_evq (s : State) : s.teardown.evq = s.evq := by
  unfold State.teardown; split <;> rfl
@[simp] theorem State.teardown_res0 (s : State) : s.teardown.res0 = s.res0 := by
  unfold State.teardown; split <;> rfl
@[simp] theorem State.teardown_res1 (s : State) : s.teardown.res1 = s.res1 := by
  unfold State.teardown; split <;> rfl
@[simp] theorem State.teardown_res2 (s : State) : s.teardown.res2 = s.res2 := by
  unfold State.teardown; split <;> rfl
@[simp] theorem State.teardown_res3 (s : State) : s.teardown.res3 = s.res3 := by
  unfold State.teardown; split <;> rfl
@[simp] theorem State.teardown_out (s : State) : s.teardown.out = s.out := by
  unfold State.teardown; split <;> rfl
@[simp] theorem State.teardown_geo (s : State) : s.teardown.geo = s.geo := by
  unfold State.teardown; split <;> rfl
@[simp] theorem State.teardown_vol (s : State) : s.teardown.vol = s.vol := by
  unfold State.teardown; split <;> rfl
@[simp] theorem State.teardown_port (s : State) : s.teardown.port = s.port := by
  unfold State.teardown; split <;> rfl
@[simp] theorem State.teardown_free (s : State) : s.teardown.free = s.free := by
  unfold State.teardown; split <;> rfl

/-! ### The units' clears -/

@[simp] theorem BqUnit.cleared_en (u : BqUnit) : u.cleared.en = u.en := rfl
@[simp] theorem BqUnit.cleared_type (u : BqUnit) : u.cleared.type = u.type := rfl
@[simp] theorem BqUnit.cleared_freq (u : BqUnit) : u.cleared.freq = u.freq := rfl
@[simp] theorem BqUnit.cleared_q (u : BqUnit) : u.cleared.q = u.q := rfl
@[simp] theorem BqUnit.cleared_gain (u : BqUnit) : u.cleared.gain = u.gain := rfl
@[simp] theorem BqUnit.cleared_coeffs (u : BqUnit) : u.cleared.coeffs = u.coeffs := rfl
@[simp] theorem BqUnit.cleared_hist (u : BqUnit) : u.cleared.hist = [] := rfl
@[simp] theorem CmpUnit.cleared_en (u : CmpUnit) : u.cleared.en = u.en := rfl
@[simp] theorem CmpUnit.cleared_threshold (u : CmpUnit) : u.cleared.threshold = u.threshold := rfl
@[simp] theorem CmpUnit.cleared_ratio (u : CmpUnit) : u.cleared.ratio = u.ratio := rfl
@[simp] theorem CmpUnit.cleared_attackMs (u : CmpUnit) : u.cleared.attackMs = u.attackMs := rfl
@[simp] theorem CmpUnit.cleared_releaseMs (u : CmpUnit) : u.cleared.releaseMs = u.releaseMs := rfl
@[simp] theorem CmpUnit.cleared_makeup (u : CmpUnit) : u.cleared.makeup = u.makeup := rfl
@[simp] theorem CmpUnit.cleared_knee (u : CmpUnit) : u.cleared.knee = u.knee := rfl
@[simp] theorem CmpUnit.cleared_attackC (u : CmpUnit) : u.cleared.attackC = u.attackC := rfl
@[simp] theorem CmpUnit.cleared_releaseC (u : CmpUnit) : u.cleared.releaseC = u.releaseC := rfl
@[simp] theorem CmpUnit.cleared_env (u : CmpUnit) : u.cleared.env = f64Zero := rfl
@[simp] theorem CmpUnit.cleared_gr (u : CmpUnit) : u.cleared.gr = f64Zero := rfl
@[simp] theorem SeekUnit.cleared_totalMs (u : SeekUnit) : u.cleared.totalMs = u.totalMs := rfl
@[simp] theorem SeekUnit.cleared_pos (u : SeekUnit) : u.cleared.pos = 0 := rfl
@[simp] theorem SeekUnit.cleared_pend (u : SeekUnit) : u.cleared.pend = none := rfl
@[simp] theorem SeekUnit.cleared_left (u : SeekUnit) : u.cleared.left = [] := rfl
@[simp] theorem RvbUnit.allocated_en (u : RvbUnit) (len : Word) : (u.allocated len).en = u.en := rfl
@[simp] theorem RvbUnit.allocated_room (u : RvbUnit) (len : Word) : (u.allocated len).room = u.room := rfl
@[simp] theorem RvbUnit.allocated_damping (u : RvbUnit) (len : Word) : (u.allocated len).damping = u.damping := rfl
@[simp] theorem RvbUnit.allocated_wet (u : RvbUnit) (len : Word) : (u.allocated len).wet = u.wet := rfl
@[simp] theorem RvbUnit.allocated_dry (u : RvbUnit) (len : Word) : (u.allocated len).dry = u.dry := rfl
@[simp] theorem RvbUnit.allocated_lineLen (u : RvbUnit) (len : Word) : (u.allocated len).lineLen = len := rfl
@[simp] theorem RvbUnit.allocated_cursor (u : RvbUnit) (len : Word) : (u.allocated len).cursor = 0 := rfl
@[simp] theorem RvbUnit.allocated_line (u : RvbUnit) (len : Word) : (u.allocated len).line = [] := rfl

end Sys2Proof.Machine
end

