-- ==== Sys2Proof/Laws/Ops.lean ====
section
/-!
SUPPORT. What each shared operation of the commands can do, said once: completion and errors, the
value checks of operands, the checked design, the pieces of SEEK.
-/

namespace Sys2Proof.Machine

/-! ### Completion, errors, accepted setters (R1020, R1002, R1011) -/

theorem State.complete_ok (s : State) : s.complete .ok = { s with lastErr := .ok } := by
  simp [State.complete]

theorem State.complete_err (s : State) {code : ErrCode} (h : code ≠ .ok) :
    s.complete code = { s with lastErr := code, errSticky := true } := by
  simp [State.complete, h]

theorem succeed_eq (s : State) : succeed s = .next { s with lastErr := .ok } := by
  rw [succeed, State.complete_ok]

theorem raiseErr_eq {code : ErrCode} (h : code ≠ .ok) (s : State) :
    raiseErr code s = .next { s with lastErr := code, errSticky := true } := by
  rw [raiseErr, State.complete_err s h]

theorem succeedReconfig_eq (addr : BitVec 16) (value : Word) (s : State) :
    succeedReconfig addr value s =
      .next { s with lastErr := .ok, evq := s.evq ++ [.reconfig addr value] } := by
  rw [succeedReconfig, succeed_eq]
  rfl

/-! ### The value checks of operands: when each accepts, and that an error is never OK -/

theorem clampedOperand_eq_ok {v lo hi x : F64} :
    clampedOperand v lo hi = .ok x ↔ f64IsNaN v = false ∧ x = clampF v lo hi := by
  unfold clampedOperand
  split <;> simp_all <;> exact eq_comm

theorem clampedOperand_eq_error {v lo hi : F64} {e : ErrCode} :
    clampedOperand v lo hi = .error e ↔ f64IsNaN v = true ∧ e = .badParam := by
  unfold clampedOperand
  split <;> simp_all <;> exact eq_comm

theorem bitdepthOperand_eq_ok {v : Word} {b : BitDepth} :
    bitdepthOperand v = .ok b ↔ v = b.code := by
  unfold bitdepthOperand
  cases b <;> simp only [BitDepth.code] <;> split <;> (try split) <;> simp_all

theorem bitdepthOperand_eq_error {v : Word} {e : ErrCode} :
    bitdepthOperand v = .error e ↔ (v ≠ 16 ∧ v ≠ 32) ∧ e = .unsupportedFormat := by
  unfold bitdepthOperand
  split <;> (try split) <;> simp_all <;> exact eq_comm

theorem endianOperand_eq_ok {v : Word} {b : Endian} : endianOperand v = .ok b ↔ v = b.code := by
  unfold endianOperand
  cases b <;> simp only [Endian.code] <;> split <;> (try split) <;> simp_all

theorem endianOperand_eq_error {v : Word} {e : ErrCode} :
    endianOperand v = .error e ↔ (v ≠ 0 ∧ v ≠ 1) ∧ e = .unsupportedFormat := by
  unfold endianOperand
  split <;> (try split) <;> simp_all <;> exact eq_comm

theorem rateOperand_eq_ok {v r : Word} {freq : F64} :
    rateOperand v freq = .ok r ↔
      (1 ≤ v.toNat ∧ v.toNat ≤ Config.maxRate ∧
        flt (toF64 (v.toNat : Int)) (fmul f64Two freq) = false) ∧ r = v := by
  unfold rateOperand
  split
  · constructor
    · intro h; cases h
    · intro h; omega
  · split
    · constructor
      · intro h; cases h
      · intro h; omega
    · split
      · simp_all
      · constructor
        · intro h
          refine ⟨⟨by omega, by omega, by simp_all⟩, ?_⟩
          cases h; rfl
        · rintro ⟨-, rfl⟩; rfl

theorem rateOperand_error_ne_ok {v : Word} {freq : F64} {e : ErrCode}
    (h : rateOperand v freq = .error e) : e ≠ .ok := by
  unfold rateOperand at h
  split at h
  · cases h; decide
  · split at h
    · cases h; decide
    · split at h
      · cases h; decide
      · cases h

theorem channelsOperand_eq_ok {v n : Word} :
    channelsOperand v = .ok n ↔ (1 ≤ v.toNat ∧ v.toNat ≤ Config.maxChannels) ∧ n = v := by
  unfold channelsOperand
  split
  · constructor
    · intro h; cases h
    · intro h; omega
  · split
    · constructor
      · intro h; cases h
      · intro h; omega
    · constructor
      · intro h
        refine ⟨by omega, ?_⟩
        cases h; rfl
      · rintro ⟨-, rfl⟩; rfl

theorem channelsOperand_eq_error {v : Word} {e : ErrCode} (h : channelsOperand v = .error e) :
    e = .badChannels := by
  unfold channelsOperand at h
  split at h
  · cases h; rfl
  · split at h
    · cases h; rfl
    · cases h

theorem filterTypeOperand_code (t : FilterType) : filterTypeOperand t.code = .ok t := by
  cases t <;> rfl

theorem filterTypeOperand_eq_ok {v : Word} {t : FilterType} (h : filterTypeOperand v = .ok t) :
    v = t.code := by
  apply BitVec.eq_of_toNat_eq
  unfold filterTypeOperand at h
  split at h <;> cases h <;> simp_all [FilterType.code]

theorem filterTypeOperand_eq_error {v : Word} {e : ErrCode} (h : filterTypeOperand v = .error e) :
    10 < v.toNat ∧ e = .badFilterType := by
  unfold filterTypeOperand at h
  split at h <;> cases h
  refine ⟨?_, rfl⟩
  by_contra hle
  have : v.toNat < 11 := by omega
  interval_cases v.toNat <;> simp_all

theorem freqOperand_eq_ok {v rateF f : F64} :
    freqOperand v rateF = .ok f ↔
      (f64IsFinite v = true ∧ flt v f64Zero = false ∧ flt rateF (fmul f64Two (plusZero v)) = false) ∧
        f = plusZero v := by
  unfold freqOperand
  split
  · simp_all
  · split
    · simp_all
    · split <;> simp_all <;> exact eq_comm

theorem freqOperand_eq_error {v rateF : F64} {e : ErrCode} (h : freqOperand v rateF = .error e) :
    e = .badFrequency := by
  unfold freqOperand at h
  split at h
  · cases h; rfl
  · split at h
    · cases h; rfl
    · split at h <;> cases h; rfl

theorem qOperand_eq_ok {v q : F64} :
    qOperand v = .ok q ↔ (f64IsFinite v = true ∧ flt f64Zero v = true) ∧ q = v := by
  unfold qOperand
  split
  · simp_all
  · split <;> simp_all <;> exact eq_comm

theorem qOperand_eq_error {v : F64} {e : ErrCode} (h : qOperand v = .error e) : e = .badQ := by
  unfold qOperand at h
  split at h
  · cases h; rfl
  · split at h <;> cases h; rfl

theorem gainOperand_eq_ok {v g : F64} : gainOperand v = .ok g ↔ f64IsFinite v = true ∧ g = v := by
  unfold gainOperand
  split <;> simp_all <;> exact eq_comm

theorem gainOperand_eq_error {v : F64} {e : ErrCode} (h : gainOperand v = .error e) :
    e = .badParam := by
  unfold gainOperand at h
  split at h <;> cases h; rfl

theorem volumeOperand_eq_ok {v x : F64} :
    volumeOperand v = .ok x ↔
      (f64IsNaN v = false ∧ flt v f64Zero = false) ∧
        x = if v = f64Inf then Config.volMax else plusZero v := by
  unfold volumeOperand
  split
  · simp_all
  · split
    · simp_all
    · split <;> simp_all <;> exact eq_comm

theorem volumeOperand_eq_error {v : F64} {e : ErrCode} (h : volumeOperand v = .error e) :
    e = .badVolume := by
  unfold volumeOperand at h
  split at h
  · cases h; rfl
  · split at h
    · cases h; rfl
    · split at h <;> cases h

theorem durationOperand_eq_ok {v x : F64} :
    durationOperand v = .ok x ↔ (f64IsFinite v = true ∧ fle v f64Zero = false) ∧ x = v := by
  unfold durationOperand
  split
  · simp_all
  · split <;> simp_all <;> exact eq_comm

theorem durationOperand_eq_error {v : F64} {e : ErrCode} (h : durationOperand v = .error e) :
    e = .badDuration := by
  unfold durationOperand at h
  split at h
  · cases h; rfl
  · split at h <;> cases h; rfl

/-! ### The checked design (R510) -/

theorem checkedDesign_eq_ok {t : FilterType} {fs f q g : F64} {c : Coeffs} :
    checkedDesign t fs f q g = .ok c ↔ (design t fs f q g).finite = true ∧ c = design t fs f q g := by
  unfold checkedDesign
  split <;> simp_all <;> exact eq_comm

theorem checkedDesign_eq_error {t : FilterType} {fs f q g : F64} {e : ErrCode} :
    checkedDesign t fs f q g = .error e ↔
      (design t fs f q g).finite = false ∧ e = .badParam := by
  unfold checkedDesign
  split <;> simp_all <;> exact eq_comm

/-! ### The end of SEEK (R931) -/

/-- The three ends of a seek whose target is known. -/
theorem seekTo_eq (r : F64) (target : Word) (s : State) :
    seekTo r target s =
      .next
        (if target = s.seek.continuesAt then { s with lastErr := .ok }
        else
          { s with
            lastErr := .ok
            seek := s.seek.movedTo target
            evq := s.evq ++ [.seek r target (BitVec.ofNat 64 (target.toNat * s.geo.byteWidth))] }) := by
  unfold seekTo
  split
  · rw [succeed_eq]
  · rw [succeed_eq]; rfl

end Sys2Proof.Machine
end

