-- ==== Sys2Proof/Laws/Stream.lean ====
section
/-!
SUPPORT. What the data path can do, said once stage by stage: which fields each stage may change, that
the cell stores keep their canonical form, and how many bytes go through.
-/

namespace Sys2Proof.Machine

/-! ### Bytes -/

@[simp] theorem length_leBytes (k n : Nat) : (leBytes k n).length = k := by
  induction k generalizing n with
  | zero => rfl
  | succ k ih => simp [leBytes, ih]

theorem leNat_lt (bs : List Byte) : leNat bs < 256 ^ bs.length := by
  induction bs with
  | nil => simp [leNat]
  | cons b bs ih =>
    have hb := b.isLt
    simp only [leNat, List.length_cons, pow_succ]
    omega

/-- The low bytes of a number, read back. -/
theorem leNat_leBytes (k n : Nat) : leNat (leBytes k n) = n % 256 ^ k := by
  induction k generalizing n with
  | zero => simp [leBytes, leNat, Nat.mod_one]
  | succ k ih =>
    have h : (BitVec.ofNat 8 n).toNat = n % 256 := BitVec.toNat_ofNat n 8
    simp only [leBytes, leNat, ih, h]
    rw [Nat.pow_succ, Nat.mul_comm (256 ^ k) 256, Nat.mod_mul]

/-- The bytes of a byte sequence's number are that sequence. -/
theorem leBytes_leNat (bs : List Byte) : leBytes bs.length (leNat bs) = bs := by
  induction bs with
  | nil => rfl
  | cons b bs ih =>
    have hb := b.isLt
    simp only [leNat, List.length_cons, leBytes]
    congr 1
    · apply BitVec.eq_of_toNat_eq
      simp only [BitVec.toNat_ofNat]
      omega
    · rw [show (b.toNat + 256 * leNat bs) / 256 = leNat bs by omega, ih]

@[simp] theorem length_order (e : Endian) (bs : List Byte) : (e.order bs).length = bs.length := by
  cases e <;> simp [Endian.order]

@[simp] theorem order_order (e : Endian) (bs : List Byte) : e.order (e.order bs) = bs := by
  cases e <;> simp [Endian.order]

@[simp] theorem length_bytesOfSample (g : Geometry) (v : Int) :
    (bytesOfSample g v).length = g.byteWidth := by simp [bytesOfSample]

/-! ### The stages -/

theorem cmpStep_unit (ext : Nat) (u : CmpUnit) (v : Int) (free : Nat) :
    ∃ env gr, (cmpStep ext u v free).2.1 = { u with env := env, gr := gr } := ⟨_, _, rfl⟩

theorem sweepLines_wf (fb k x : F64) (len cur count i : Nat) (w : LineSweep) (h : w.line.wf) :
    (sweepLines fb k x len cur count i w).line.wf := by
  induction count generalizing i w with
  | zero => exact h
  | succ count ih => exact ih (i + 1) _ (Memory.wf_write h _ _)

theorem rvbStep_unit (ext : Nat) (u : RvbUnit) (v : Int) (free : Nat) :
    ∃ line, (u.line.wf → line.wf) ∧
      (rvbStep ext u v free).2.1 =
        { u with
          line := line
          cursor := BitVec.ofNat 64 ((u.cursor.toNat + 1) % u.lineLen.toNat) } :=
  ⟨_, fun h => sweepLines_wf _ _ _ _ _ _ _ _ h, rfl⟩

theorem bqStep_unit (ext : Nat) (u : BqUnit) (ch : Nat) (v : Int) (free : Nat) :
    ∃ hist, (u.hist.wf → hist.wf) ∧ (bqStep ext u ch v free).2.1 = { u with hist := hist } :=
  ⟨_, fun h => Memory.wf_write (Memory.wf_write (Memory.wf_write (Memory.wf_write h _ _) _ _) _ _) _ _,
    rfl⟩

/-- A BQ step leaves every cell of the other channels. -/
theorem bqStep_read_other (ext : Nat) (u : BqUnit) (ch : Nat) (v : Int) (free : Nat) {k : Nat}
    (h : k / 4 ≠ ch) : (bqStep ext u ch v free).2.1.hist.read k = u.hist.read k := by
  simp only [bqStep]
  rw [Memory.read_write_other _ _ (by omega), Memory.read_write_other _ _ (by omega),
    Memory.read_write_other _ _ (by omega), Memory.read_write_other _ _ (by omega)]

/-- The line loop leaves every cell but the one at the cursor of each line it runs over. -/
theorem sweepLines_read_other (fb k x : F64) (len cur count i : Nat) (w : LineSweep) {a : Nat}
    (h : ∀ j, i ≤ j → j < i + count → a ≠ j * len + cur) :
    (sweepLines fb k x len cur count i w).line.read a = w.line.read a := by
  induction count generalizing i w with
  | zero => rfl
  | succ count ih =>
    rw [sweepLines, ih (i + 1) _ fun j hj hc => h j (by omega) (by omega)]
    exact Memory.read_write_other _ _ (h i (by omega) (by omega))

/-- An RVB step leaves every cell but the one at the cursor of each line. -/
theorem rvbStep_read_other (ext : Nat) (u : RvbUnit) (v : Int) (free : Nat) {a : Nat}
    (h : ∀ i, i < Config.nLines → a ≠ i * u.lineLen.toNat + u.cursor.toNat) :
    (rvbStep ext u v free).2.1.line.read a = u.line.read a :=
  sweepLines_read_other _ _ _ _ _ _ _ _ fun j _ hj => h j (by omega)

/-- CMP's stage: bypassed, or the sample and ENV, GR and the free counter are all it changes. -/
theorem stageCmp_cases (v : Int) (s : State) :
    (s.cmp.en = false ∧ stageCmp v s = (v, s)) ∨
      (s.cmp.en = true ∧
        stageCmp v s =
          ((cmpStep s.geo.extremum s.cmp v s.free).1,
            { s with
              cmp := (cmpStep s.geo.extremum s.cmp v s.free).2.1
              free := (cmpStep s.geo.extremum s.cmp v s.free).2.2 })) := by
  unfold stageCmp
  cases s.cmp.en <;> simp

/-- RVB's stage: bypassed, or the sample and LINE, the cursor and the free counter. -/
theorem stageRvb_cases (v : Int) (s : State) :
    (s.rvb.en = false ∧ stageRvb v s = (v, s)) ∨
      (s.rvb.en = true ∧
        stageRvb v s =
          ((rvbStep s.geo.extremum s.rvb v s.free).1,
            { s with
              rvb := (rvbStep s.geo.extremum s.rvb v s.free).2.1
              free := (rvbStep s.geo.extremum s.rvb v s.free).2.2 })) := by
  unfold stageRvb
  cases s.rvb.en <;> simp

/-- BQ's stage: bypassed, or the sample, the history and the free counter. -/
theorem stageBq_cases (ch : Nat) (v : Int) (s : State) :
    (s.bq.en = false ∧ stageBq ch v s = (v, s)) ∨
      (s.bq.en = true ∧
        stageBq ch v s =
          ((bqStep s.geo.extremum s.bq ch v s.free).1,
            { s with
              bq := (bqStep s.geo.extremum s.bq ch v s.free).2.1
              free := (bqStep s.geo.extremum s.bq ch v s.free).2.2 })) := by
  unfold stageBq
  cases s.bq.en <;> simp

/-- VOL's stage changes the sample alone. -/
@[simp] theorem stageVol_state (v : Int) (s : State) : (stageVol v s).2 = s := by
  unfold stageVol
  split <;> rfl

/-- Every field that no sample changes; `s` and `t` agree on all but ENV, GR, LINE, the cursor, the
history and the free counter. -/
structure SameButRunning (s t : State) : Prop where
  phase : t.phase = s.phase
  lastErr : t.lastErr = s.lastErr
  errSticky : t.errSticky = s.errSticky
  evq : t.evq = s.evq
  res0 : t.res0 = s.res0
  res1 : t.res1 = s.res1
  res2 : t.res2 = s.res2
  res3 : t.res3 = s.res3
  out : t.out = s.out
  geo : t.geo = s.geo
  bq : ∃ hist, (s.bq.hist.wf → hist.wf) ∧ t.bq = { s.bq with hist := hist }
  cmp : ∃ env gr, t.cmp = { s.cmp with env := env, gr := gr }
  rvb : ∃ line cursor, (s.rvb.line.wf → line.wf) ∧ t.rvb = { s.rvb with line := line, cursor := cursor }
  vol : t.vol = s.vol
  seek : t.seek = s.seek
  port : t.port = s.port

theorem SameButRunning.refl (s : State) : SameButRunning s s := by
  constructor <;> first | rfl | exact ⟨_, id, rfl⟩ | exact ⟨_, _, rfl⟩ | exact ⟨_, _, id, rfl⟩

theorem SameButRunning.trans {s t u : State} (h : SameButRunning s t) (k : SameButRunning t u) :
    SameButRunning s u := by
  obtain ⟨h1, hw1, hb1⟩ := h.bq
  obtain ⟨h2, hw2, hb2⟩ := k.bq
  obtain ⟨e1, g1, hc1⟩ := h.cmp
  obtain ⟨e2, g2, hc2⟩ := k.cmp
  obtain ⟨l1, c1, hl1, hr1⟩ := h.rvb
  obtain ⟨l2, c2, hl2, hr2⟩ := k.rvb
  refine
    { phase := k.phase.trans h.phase, lastErr := k.lastErr.trans h.lastErr
      errSticky := k.errSticky.trans h.errSticky, evq := k.evq.trans h.evq
      res0 := k.res0.trans h.res0, res1 := k.res1.trans h.res1, res2 := k.res2.trans h.res2
      res3 := k.res3.trans h.res3, out := k.out.trans h.out, geo := k.geo.trans h.geo
      bq := ⟨h2, fun hw => hw2 (by rw [hb1]; exact hw1 hw), by rw [hb2, hb1]⟩
      cmp := ⟨e2, g2, by rw [hc2, hc1]⟩
      rvb := ⟨l2, c2, fun hw => hl2 (by rw [hr1]; exact hl1 hw), by rw [hr2, hr1]⟩
      vol := k.vol.trans h.vol, seek := k.seek.trans h.seek, port := k.port.trans h.port }

theorem stageCmp_same (v : Int) (s : State) : SameButRunning s (stageCmp v s).2 := by
  rcases stageCmp_cases v s with ⟨-, h⟩ | ⟨-, h⟩
  · rw [h]; exact SameButRunning.refl s
  · rw [h]
    constructor <;> first | rfl | exact ⟨_, id, rfl⟩ | exact ⟨_, _, id, rfl⟩ | exact cmpStep_unit _ _ _ _

theorem stageRvb_same (v : Int) (s : State) : SameButRunning s (stageRvb v s).2 := by
  rcases stageRvb_cases v s with ⟨-, h⟩ | ⟨-, h⟩
  · rw [h]; exact SameButRunning.refl s
  · rw [h]
    obtain ⟨line, hw, hu⟩ := rvbStep_unit s.geo.extremum s.rvb v s.free
    constructor <;> first | rfl | exact ⟨_, id, rfl⟩ | exact ⟨_, _, rfl⟩ | exact ⟨line, _, hw, hu⟩

theorem stageBq_same (ch : Nat) (v : Int) (s : State) : SameButRunning s (stageBq ch v s).2 := by
  rcases stageBq_cases ch v s with ⟨-, h⟩ | ⟨-, h⟩
  · rw [h]; exact SameButRunning.refl s
  · rw [h]
    obtain ⟨hist, hw, hu⟩ := bqStep_unit s.geo.extremum s.bq ch v s.free
    constructor <;> first | rfl | exact ⟨hist, hw, hu⟩ | exact ⟨_, _, rfl⟩ | exact ⟨_, _, id, rfl⟩

/-- One sample's way through the chain changes running state alone. -/
theorem stageChain_same (ch : Nat) (v : Int) (s : State) : SameButRunning s (stageChain ch v s).2 := by
  unfold stageChain
  simp only [stageVol_state]
  exact ((stageCmp_same v s).trans (stageRvb_same _ _)).trans (stageBq_same ch _ _)

/-! ### The sample loop -/

/-- A run of samples changes running state alone. -/
theorem processSamples_same (count j : Nat) (buf : List Byte) (s : State) :
    SameButRunning s (processSamples count j buf s).2 := by
  induction count generalizing j buf s with
  | zero => exact SameButRunning.refl s
  | succ count ih => exact (stageChain_same _ _ _).trans (ih _ _ _)

/-- A run of samples keeps the length of the buffer. -/
theorem length_processSamples (count j : Nat) (buf : List Byte) (s : State)
    (h : count * s.geo.byteWidth ≤ buf.length) :
    (processSamples count j buf s).1.length = buf.length := by
  induction count generalizing j buf s with
  | zero => rfl
  | succ count ih =>
    have hb : (count + 1) * s.geo.byteWidth = count * s.geo.byteWidth + s.geo.byteWidth := by ring
    have hg := (stageChain_same (j % s.geo.chans) (sampleOfBytes s.geo (buf.take s.geo.byteWidth)) s).geo
    simp only [processSamples, List.length_append, length_bytesOfSample]
    rw [ih _ _ _ (by rw [hg, List.length_drop]; omega), List.length_drop]
    omega

/-- The loop over two runs of samples is one run after the other. -/
theorem processSamples_add (m n j : Nat) (buf : List Byte) (s : State)
    (h : m * s.geo.byteWidth ≤ buf.length) :
    processSamples (m + n) j buf s =
      let a := processSamples m j (buf.take (m * s.geo.byteWidth)) s
      let b := processSamples n (j + m) (buf.drop (m * s.geo.byteWidth)) a.2
      (a.1 ++ b.1, b.2) := by
  induction m generalizing j buf s with
  | zero => simp [processSamples]
  | succ m ih =>
    have hb : (m + 1) * s.geo.byteWidth = m * s.geo.byteWidth + s.geo.byteWidth := by ring
    have hg := (stageChain_same (j % s.geo.chans) (sampleOfBytes s.geo (buf.take s.geo.byteWidth)) s).geo
    rw [show m + 1 + n = m + n + 1 by omega]
    have ht : (buf.take ((m + 1) * s.geo.byteWidth)).take s.geo.byteWidth = buf.take s.geo.byteWidth := by
      rw [List.take_take, Nat.min_eq_left (by omega)]
    have hd : (buf.take ((m + 1) * s.geo.byteWidth)).drop s.geo.byteWidth =
        (buf.drop s.geo.byteWidth).take (m * s.geo.byteWidth) := by
      rw [List.drop_take]
      congr 1
      omega
    have hdd : (buf.drop s.geo.byteWidth).drop (m * s.geo.byteWidth) =
        buf.drop ((m + 1) * s.geo.byteWidth) := by
      rw [List.drop_drop]
      congr 1
      omega
    have hr := ih (j + 1) (buf.drop s.geo.byteWidth)
      (stageChain (j % s.geo.chans) (sampleOfBytes s.geo (buf.take s.geo.byteWidth)) s).2
      (by rw [hg, List.length_drop]; omega)
    simp only [processSamples, ht, hd]
    rw [hr]
    simp only [hg, hdd, List.append_assoc]
    rw [show j + 1 + m = j + (m + 1) by omega]

theorem processFrames_same (e : List Byte) (s : State) : SameButRunning s (processFrames e s).2 :=
  processSamples_same _ _ _ _

/-! ### The tracker (R920) -/

/-- The three outcomes of tracking a chunk. -/
theorem track_cases (g : Geometry) (u : SeekUnit) (buf : List Byte) :
    let f := buf.length / g.frameBytes
    let whole := buf.take (f * g.frameBytes)
    let rest := buf.drop (f * g.frameBytes)
    let endPos := u.pos.toNat + f * g.chans
    (u.pend = none ∧
        track g u buf = (whole, { u with pos := BitVec.ofNat 64 endPos, left := rest })) ∨
      (∃ p, u.pend = some p ∧ endPos ≤ p.toNat ∧
        track g u buf = ([], { u with pos := BitVec.ofNat 64 endPos, left := rest })) ∨
      (∃ p, u.pend = some p ∧ p.toNat < endPos ∧
        track g u buf =
          (whole.drop ((p.toNat - u.pos.toNat) * g.byteWidth),
            { u with pos := BitVec.ofNat 64 endPos, pend := none, left := rest })) := by
  intro f whole rest endPos
  unfold track
  cases hp : u.pend with
  | none => exact Or.inl ⟨rfl, rfl⟩
  | some p =>
    rcases Nat.lt_or_ge p.toNat endPos with h | h
    · refine Or.inr (Or.inr ⟨p, rfl, h, ?_⟩)
      simp only
      rw [if_neg (Nat.not_le.mpr h)]
    · refine Or.inr (Or.inl ⟨p, rfl, h, ?_⟩)
      simp only
      rw [if_pos h]

/-- What is left over after a chunk is shorter than a frame (R921). -/
theorem track_left_lt (g : Geometry) (u : SeekUnit) (buf : List Byte) (h : 0 < g.frameBytes) :
    (track g u buf).2.left.length < g.frameBytes := by
  have hm := Nat.mod_lt buf.length h
  have hd := Nat.div_add_mod buf.length g.frameBytes
  have hl : (track g u buf).2.left = buf.drop (buf.length / g.frameBytes * g.frameBytes) := by
    rcases track_cases g u buf with ⟨-, h⟩ | ⟨p, -, -, h⟩ | ⟨p, -, -, h⟩ <;> rw [h]
  rw [hl, List.length_drop, Nat.mul_comm]
  omega

/-- PUSH changes running state, the seeker and OUT alone, and only appends to OUT. -/
theorem pushChunk_cases (payload : List Byte) (s : State) :
    ∃ u bytes,
      SameButRunning { s with seek := (track s.geo s.seek (s.seek.left ++ payload)).2 } u ∧
        pushChunk payload s = u.emit bytes :=
  ⟨_, _, processFrames_same _ _, rfl⟩

end Sys2Proof.Machine
end

