-- ==== Sys2Proof/Safety.lean ====
section
/-!
DEFINITION. The terms claims are made in: the states a command ends in, the invariants of the core
(10_state.md), the opcode table as numbers, and what a binary64 pattern is worth as a rational.
-/

namespace Sys2Proof

/-! ### The opcode table (30_encoding.md R310 to R316) -/

/-- A row of the opcode table: the bits of CW that are fixed, what they are fixed to, and the operand
kind. -/
structure TableRow where
  mask : BitVec 32
  value : BitVec 32
  kind : OperandKind
  deriving DecidableEq, Repr

/-- A row with the whole CW fixed. -/
def fixedRow (value : BitVec 32) (kind : OperandKind) : TableRow := ⟨0xFFFFFFFF, value, kind⟩

/-- The rows of UNIT 0. -/
def tableCtl : List TableRow :=
  [fixedRow 0x00000000 .none, fixedRow 0x01000000 .none, fixedRow 0x02000000 .none,
    fixedRow 0x03000000 .len, fixedRow 0x04000000 .none, ⟨0xFFFEFFFF, 0x05000000, .none⟩,
    ⟨0xFFFF0000, 0x06000000, .none⟩, fixedRow 0x07000000 .none, fixedRow 0x08000000 .none,
    fixedRow 0x09000000 .u64, fixedRow 0x0A000000 .u64, fixedRow 0x0B000000 .u64,
    fixedRow 0x0C000000 .u64, fixedRow 0x0D000000 .none]

/-- The rows of UNIT 1. -/
def tableBq : List TableRow :=
  [fixedRow 0x10000000 .u64, fixedRow 0x11000000 .f64, fixedRow 0x12000000 .f64,
    fixedRow 0x13000000 .f64, fixedRow 0x14000000 .none, fixedRow 0x15000000 .none]

/-- The rows of UNIT 2. -/
def tableCmp : List TableRow :=
  [fixedRow 0x20000000 .f64, fixedRow 0x21000000 .f64, fixedRow 0x22000000 .f64,
    fixedRow 0x23000000 .f64, fixedRow 0x24000000 .f64, fixedRow 0x25000000 .f64,
    fixedRow 0x26000000 .none, fixedRow 0x27000000 .none]

/-- The rows of UNIT 3. -/
def tableRvb : List TableRow :=
  [fixedRow 0x30000000 .f64, fixedRow 0x31000000 .f64, fixedRow 0x32000000 .f64,
    fixedRow 0x33000000 .f64, fixedRow 0x34000000 .none, fixedRow 0x35000000 .none]

/-- The rows of UNIT 4 and UNIT 5. -/
def tableVolSeek : List TableRow :=
  [fixedRow 0x40000000 .f64, fixedRow 0x41000000 .none, fixedRow 0x42000000 .none,
    fixedRow 0x50000000 .f64, fixedRow 0x51000000 .f64]

/-- The 39 rows, as spec/opcode_table.json gives match, mask and operand kind. -/
def opcodeTable : List TableRow := tableCtl ++ tableBq ++ tableCmp ++ tableRvb ++ tableVolSeek

/-- Whether a command word is one of a row's. -/
def TableRow.admits (r : TableRow) (cw : BitVec 32) : Bool := cw &&& r.mask == r.value

/-- How many operations a unit has; 0 for a reserved unit (R301, R310 to R315). -/
def opCount (unit : Nat) : Nat := [14, 6, 8, 6, 3, 2].getD unit 0

/-! ### Which commands are setters, and of which register (60_exceptions.md R1011) -/

/-- The register whose RECONFIG event an accepted command posts; none for a command that posts
none. -/
def setterAddress : Instr → Option (BitVec 16)
  | .ctlSetBitdepth _ => some 0x0010
  | .ctlSetEndian _ => some 0x0011
  | .ctlSetRate _ => some 0x0012
  | .ctlSetChannels _ => some 0x0013
  | .bqSetType _ => some 0x0101
  | .bqSetFreq _ => some 0x0102
  | .bqSetQ _ => some 0x0103
  | .bqSetGain _ => some 0x0104
  | .bqEnable | .bqDisable => some 0x0100
  | .cmpSetThreshold _ => some 0x0201
  | .cmpSetRatio _ => some 0x0202
  | .cmpSetAttack _ => some 0x0203
  | .cmpSetRelease _ => some 0x0204
  | .cmpSetMakeup _ => some 0x0205
  | .cmpSetKnee _ => some 0x0206
  | .cmpEnable | .cmpDisable => some 0x0200
  | .rvbSetRoom _ => some 0x0301
  | .rvbSetDamping _ => some 0x0302
  | .rvbSetWet _ => some 0x0303
  | .rvbSetDry _ => some 0x0304
  | .rvbEnable | .rvbDisable => some 0x0300
  | .volSetVolume _ => some 0x0401
  | .volEnable | .volDisable => some 0x0400
  | .seekSetDuration _ => some 0x0500
  | .ctlNop | .ctlCreate | .ctlDestroy | .ctlPush _ | .ctlEnd | .ctlStreamError _ | .ctlReadReg _
  | .ctlPopEvent | .ctlAckErr | .ctlReset | .seekSeek _ => none

namespace Machine

/-! ### The states a command ends in (R1020, R1002, R1011) -/

/-- `s`, with everything a command did in it, after the completion step of a command that
succeeds. -/
def State.completed (s : State) : State := { s with lastErr := .ok }

/-- The state after a command that ends in error `e` on `s`: LAST_ERR and ERR_STICKY alone are
written (R1002). -/
def State.rejected (s : State) (e : ErrCode) : State := { s with lastErr := e, errSticky := true }

/-- `s`, with the registers a setter writes written, after the setter: one RECONFIG event and the
completion step (R1011, R1020). -/
def State.reconfigured (s : State) (addr : BitVec 16) (value : Word) : State :=
  { s with lastErr := .ok, evq := s.evq ++ [.reconfig addr value] }

/-! ### Invariants (10_state.md) -/

/-- In IDLE no running state is held (R410); in ACTIVE the delay lines have cells and the cursor is
one of them (R141). -/
def State.lifecycleOk (s : State) : Prop :=
  match s.phase with
  | .idle =>
    s.bq.hist = [] ∧ s.cmp.env = 0 ∧ s.cmp.gr = 0 ∧ s.rvb.lineLen = 0 ∧ s.rvb.cursor = 0 ∧
      s.rvb.line = [] ∧ s.seek.pos = 0 ∧ s.seek.pend = none ∧ s.seek.left = []
  | .active => 1 ≤ s.rvb.lineLen.toNat ∧ s.rvb.cursor.toNat < s.rvb.lineLen.toNat

/-- With the lifecycle: at least one channel (R114); less than a frame is left over (R153); a pending
target is a multiple of CHANNELS and not behind the position (R152). -/
def State.framingOk (s : State) : Prop :=
  s.lifecycleOk ∧ 1 ≤ s.geo.chans ∧ s.seek.left.length < s.geo.frameBytes ∧
    ∀ p, s.seek.pend = some p → s.seek.pos.toNat ≤ p.toNat ∧ s.geo.chans ∣ p.toNat

/-- With the framing: the cell stores are in canonical form, and hold cells of existing channels and
existing lines only (R122, R142). -/
def State.cellsOk (s : State) : Prop :=
  s.framingOk ∧ s.bq.hist.wf ∧ s.rvb.line.wf ∧ (∀ c ∈ s.bq.hist, c.1 < 4 * s.geo.chans) ∧
    ∀ c ∈ s.rvb.line, c.1 < Config.nLines * s.rvb.lineLen.toNat

/-- A number of the closed interval from `lo` to `hi`, and no −0. -/
abbrev inRange (lo hi v : F64) : Prop := fle lo v = true ∧ fle v hi = true ∧ v ≠ fneg f64Zero

/-- Every parameter register holds a legal value (R113, R114, R120, R130, R140, R145, R150), and the
rate as binary64 is finite and above 0 (R511). The reset values RATE 48000 and CHANNELS 2 are legal
whatever MAX_RATE and MAX_CHANNELS are (assumption log 8); BITDEPTH, ENDIAN and BQ_TYPE hold legal
values by their types. -/
def State.paramsOk (s : State) : Prop :=
  (1 ≤ s.geo.rate.toNat ∧ s.geo.rate.toNat ≤ max Config.maxRate 48000) ∧
    (1 ≤ s.geo.chans ∧ s.geo.chans ≤ max Config.maxChannels 2) ∧
    (f64IsFinite s.geo.rateF = true ∧ flt f64Zero s.geo.rateF = true) ∧
    (f64IsFinite s.bq.freq = true ∧ fle f64Zero s.bq.freq = true ∧
      flt s.geo.rateF (fmul f64Two s.bq.freq) = false) ∧
    (f64IsFinite s.bq.q = true ∧ flt f64Zero s.bq.q = true) ∧
    f64IsFinite s.bq.gain = true ∧
    inRange f64NegHundred f64Zero s.cmp.threshold ∧
    inRange f64One f64Inf s.cmp.ratio ∧
    inRange f64Zero f64Inf s.cmp.attackMs ∧
    inRange f64Zero f64Inf s.cmp.releaseMs ∧
    (fle f64NegTwenty s.cmp.makeup = true ∧ fle s.cmp.makeup f64Twenty = true) ∧
    inRange f64Zero f64Twenty s.cmp.knee ∧
    inRange f64Zero f64One s.rvb.room ∧
    inRange f64Zero f64One s.rvb.damping ∧
    inRange f64Zero f64One s.rvb.wet ∧
    inRange f64Zero f64One s.rvb.dry ∧
    inRange f64Zero Config.volMax s.vol.volume ∧
    (s.seek.totalMs = f64Zero ∨ (f64IsFinite s.seek.totalMs = true ∧ flt f64Zero s.seek.totalMs = true))

/-- Every derived register holds what its parameters give, and all five coefficients are finite (R121,
R131, R145). -/
def State.derivedOk (s : State) : Prop :=
  s.bq.coeffs = design s.bq.type s.geo.rateF s.bq.freq s.bq.q s.bq.gain ∧
    s.bq.coeffs.finite = true ∧
    s.cmp.attackC = coefOf s.geo.rateF s.cmp.attackMs ∧
    s.cmp.releaseC = coefOf s.geo.rateF s.cmp.releaseMs ∧
    s.vol.gain = fdiv s.vol.volume f64Hundred

/-- An error code in LAST_ERR comes with ERR_STICKY set (R1020, R432). -/
def State.stickyOk (s : State) : Prop := s.lastErr ≠ .ok → s.errSticky = true

/-- The running state released, as teardown leaves it (R410): every parameter, OUT and EVQ are kept. -/
def State.released (s : State) : State :=
  { s with
    phase := .idle
    bq := { s.bq with hist := [] }
    cmp := { s.cmp with env := 0, gr := 0 }
    rvb := { s.rvb with lineLen := 0, cursor := 0, line := [] }
    seek := { s.seek with pos := 0, pend := none, left := [] } }

/-- The state after a seek to frame `frames` with resolved time `r` (R912, R931): nothing more when the
stream continues there already; behind the position, the position moves; else the target is pending. -/
def State.soughtTo (s : State) (r : F64) (frames : Nat) : State :=
  let wanted := frames * s.geo.chans
  let target := if wanted ≤ 2 ^ 64 - 1 then wanted else (2 ^ 64 - 1) / s.geo.chans * s.geo.chans
  let continues := (s.seek.pend.getD s.seek.pos).toNat
  let ev := Event.seek r (BitVec.ofNat 64 target) (BitVec.ofNat 64 (target * s.geo.byteWidth))
  if target = continues then { s with res0 := r }
  else if target < s.seek.pos.toNat then
    { s with
      res0 := r
      evq := s.evq ++ [ev]
      seek := { s.seek with pos := BitVec.ofNat 64 target, pend := none, left := [] } }
  else
    { s with
      res0 := r
      evq := s.evq ++ [ev]
      seek := { s.seek with pend := some (BitVec.ofNat 64 target) } }

/-- Every unit is disabled. -/
def State.allDisabled (s : State) : Prop :=
  s.cmp.en = false ∧ s.rvb.en = false ∧ s.bq.en = false ∧ s.vol.en = false

/-- The addresses R160 defines, for a number of channels. -/
def definedAddress (chans a : Nat) : Prop :=
  a ≤ 0x0003 ∨ (0x0010 ≤ a ∧ a ≤ 0x0016) ∨ (0x0100 ≤ a ∧ a ≤ 0x0105) ∨ (0x0108 ≤ a ∧ a ≤ 0x010C) ∨
    (0x0200 ≤ a ∧ a ≤ 0x020A) ∨ (0x0300 ≤ a ∧ a ≤ 0x0308) ∨ (0x0400 ≤ a ∧ a ≤ 0x0402) ∨
    (0x0500 ≤ a ∧ a ≤ 0x0504) ∨ ∃ c k, c < chans ∧ k < 4 ∧ a = 0x4000 + 4 * c + k

/-! ### Numbers -/

/-- A sample of the geometry's range [−EXT, EXT − 1] (00_scope.md R10). -/
abbrev BitDepth.inRange (d : BitDepth) (v : Int) : Prop := -(d.ext : Int) ≤ v ∧ v ≤ (d.ext : Int) - 1

/-- How many quanta of 2^-1074 make 1. -/
@[irreducible] def f64Quanta : Nat := 2 ^ 1074

/-- What a finite pattern is worth; none for an infinity or a NaN. -/
def f64Rat (x : F64) : Option ℚ :=
  match f64Unpack x with
  | .nan => none
  | .inf _ => none
  | .fin s m => some ((signedMag s m : ℚ) / (f64Quanta : ℚ))

/-- `z` is the binary64 nearest to the real `r`, ties to the pattern whose last bit is 0; from
2^1024 − 2^970 on it is the infinity of r's sign (R14, IEEE 754 roundTiesToEven). -/
def NearestEven (r : ℝ) (z : F64) : Prop :=
  if |r| < 2 ^ 1024 - 2 ^ 970 then
    ∃ v : ℚ, f64Rat z = some v ∧
      ∀ (y : F64) (w : ℚ), f64Rat y = some w →
        |(v : ℝ) - r| ≤ |(w : ℝ) - r| ∧ (|(w : ℝ) - r| = |(v : ℝ) - r| → w ≠ v → z.toNat % 2 = 0)
  else (0 < r ∧ z = f64InfOf false) ∨ (r < 0 ∧ z = f64InfOf true)

/-- The sign bit of a pattern. -/
def f64Sign (x : F64) : Bool := decide (2 ^ 63 ≤ x.toNat)

end Machine

end Sys2Proof
end

