-- ==== Sys2Proof/Laws/Decode.lean ====
section
/-!
SUPPORT. Small lemmas of the encoding: the fields of a command word that is put together, the bytes
of a command taken back from the port, and the one word whose low half is an address.
-/

namespace Sys2Proof

open Machine

/-! ### The fields of a command word (R301) -/

theorem commandWord_toNat {unit op sub imm : Nat} (hu : unit < 16) (ho : op < 16) (hs : sub < 256)
    (hi : imm < 65536) :
    (commandWord unit op sub imm).toNat = unit * 2 ^ 28 + op * 2 ^ 24 + sub * 2 ^ 16 + imm := by
  unfold commandWord
  rw [BitVec.toNat_ofNat]
  omega

theorem commandWord_unit {unit op sub imm : Nat} (hu : unit < 16) (ho : op < 16) (hs : sub < 256)
    (hi : imm < 65536) : cwUnit (commandWord unit op sub imm) = unit := by
  unfold cwUnit
  rw [commandWord_toNat hu ho hs hi]
  omega

theorem commandWord_op {unit op sub imm : Nat} (hu : unit < 16) (ho : op < 16) (hs : sub < 256)
    (hi : imm < 65536) : cwOp (commandWord unit op sub imm) = op := by
  unfold cwOp
  rw [commandWord_toNat hu ho hs hi]
  omega

theorem commandWord_sub {unit op sub imm : Nat} (hu : unit < 16) (ho : op < 16) (hs : sub < 256)
    (hi : imm < 65536) : cwSub (commandWord unit op sub imm) = sub := by
  unfold cwSub
  rw [commandWord_toNat hu ho hs hi]
  omega

theorem commandWord_imm {unit op sub imm : Nat} (hu : unit < 16) (ho : op < 16) (hs : sub < 256)
    (hi : imm < 65536) : cwImm (commandWord unit op sub imm) = imm := by
  unfold cwImm
  rw [commandWord_toNat hu ho hs hi]
  omega

/-- A command word is put together from its own fields. -/
theorem commandWord_fields (cw : BitVec 32) :
    commandWord (cwUnit cw) (cwOp cw) (cwSub cw) (cwImm cw) = cw := by
  apply BitVec.eq_of_toNat_eq
  have := cw.isLt
  unfold commandWord cwUnit cwOp cwSub cwImm
  rw [BitVec.toNat_ofNat]
  omega

/-- READ_REG's word under its mask (R316). -/
theorem readRegWord_masked (a : BitVec 16) :
    TableRow.admits ⟨0xFFFF0000, 0x06000000, .none⟩ (commandWord 0 6 0 a.toNat) = true := by
  have hsplit : commandWord 0 6 0 a.toNat = 0x0600#16 ++ a := by
    apply BitVec.eq_of_toNat_eq
    have := a.isLt
    rw [commandWord_toNat (by omega) (by omega) (by omega) this, BitVec.toNat_append]
    rw [← Nat.shiftLeft_add_eq_or_of_lt this]
    simp [Nat.shiftLeft_eq]
  simp only [TableRow.admits, beq_iff_eq, hsplit]
  rw [show (0xFFFF0000 : BitVec 32) = 0xFFFF#16 ++ 0#16 by decide, BitVec.and_append]
  simp

/-! ### Commands on the port (R300, R304) -/

theorem length_commandBytes (c : Command) :
    (commandBytes c).length = 12 + c.payload.length + padLength c.payload.length := by
  simp [commandBytes]
  omega

/-- A command's bytes at the head of the port are taken back as that command. -/
theorem takeCommand_commandBytes (c : Command) (rest : List Byte)
    (h : c.payload.length = payloadLength c.cw c.opnd) :
    takeCommand (commandBytes c ++ rest) = some (c, rest) := by
  have h4 : (commandBytes c ++ rest).take 4 = leBytes 4 c.cw.toNat := by
    simp [commandBytes]
  have h8 : ((commandBytes c ++ rest).drop 4).take 8 = leBytes 8 c.opnd.toNat := by
    simp [commandBytes]
  have h12 : (commandBytes c ++ rest).drop 12 =
      c.payload ++ (List.replicate (padLength c.payload.length) 0 ++ rest) := by
    simp [commandBytes, List.drop_append]
  have hcw : BitVec.ofNat 32 (leNat (leBytes 4 c.cw.toNat)) = c.cw := by
    apply BitVec.eq_of_toNat_eq
    have := c.cw.isLt
    rw [leNat_leBytes, BitVec.toNat_ofNat]
    omega
  have hop : BitVec.ofNat 64 (leNat (leBytes 8 c.opnd.toNat)) = c.opnd := by
    apply BitVec.eq_of_toNat_eq
    have := c.opnd.isLt
    rw [leNat_leBytes, BitVec.toNat_ofNat]
    omega
  unfold takeCommand
  rw [if_neg (by rw [List.length_append, length_commandBytes]; omega), h4, h8, h12, hcw, hop]
  simp only [← h]
  rw [if_neg (by simp)]
  simp [List.drop_append]

end Sys2Proof
end

