-- ==== Sys2Proof/Laws/PerInstr.lean ====
section
/-!
SUPPORT. The per-instruction family: the words the encoder gives every command are those of one row of
the opcode table.
-/

namespace Sys2Proof.Laws.TableWord

/-- A well-formed command's word is one of a row of the opcode table, and its operand one the row's
kind allows (30_encoding.md R316, R302). -/
def Statement (i : Instr) : Prop :=
  i.wf = true →
    ∃ r ∈ opcodeTable,
      r.admits (toCommand i).cw = true ∧ operandAllowed r.kind (toCommand i).opnd = true

/-- The command word of a unit and an operation, against its row. -/
theorem admits_commandWord {r : TableRow} (unit op : Nat)
    (h : r.admits (commandWord unit op 0 0) = true) : r.admits (commandWord unit op 0 0) = true := h

theorem ctlNop : Statement (.ctlNop) :=
  fun _ => ⟨fixedRow 0x00000000 .none, by decide, admits_commandWord 0 0 (by decide), rfl⟩

theorem ctlCreate : Statement (.ctlCreate) :=
  fun _ => ⟨fixedRow 0x01000000 .none, by decide, admits_commandWord 0 1 (by decide), rfl⟩

theorem ctlDestroy : Statement (.ctlDestroy) :=
  fun _ => ⟨fixedRow 0x02000000 .none, by decide, admits_commandWord 0 2 (by decide), rfl⟩

theorem ctlPush (payload : List Byte) : Statement (.ctlPush payload) :=
  by
  intro h
  refine ⟨fixedRow 0x03000000 .len, by decide, admits_commandWord 0 3 (by decide), ?_⟩
  have h' : payload.length < 2 ^ 32 := by simpa [Instr.wf] using h
  simp only [fixedRow, toCommand, operandAllowed, BitVec.toNat_ofNat, beq_iff_eq]
  omega

theorem ctlEnd : Statement (.ctlEnd) :=
  fun _ => ⟨fixedRow 0x04000000 .none, by decide, admits_commandWord 0 4 (by decide), rfl⟩

theorem ctlStreamError (kind : StreamErrorKind) : Statement (.ctlStreamError kind) :=
  by
  intro _
  exact ⟨⟨0xFFFEFFFF, 0x05000000, .none⟩, by decide, by cases kind <;> decide, by cases kind <;> decide⟩

theorem ctlReadReg (addr : BitVec 16) : Statement (.ctlReadReg addr) :=
  fun _ =>
  ⟨⟨0xFFFF0000, 0x06000000, .none⟩, by decide, readRegWord_masked addr, rfl⟩

theorem ctlPopEvent : Statement (.ctlPopEvent) :=
  fun _ => ⟨fixedRow 0x07000000 .none, by decide, admits_commandWord 0 7 (by decide), rfl⟩

theorem ctlAckErr : Statement (.ctlAckErr) :=
  fun _ => ⟨fixedRow 0x08000000 .none, by decide, admits_commandWord 0 8 (by decide), rfl⟩

theorem ctlSetBitdepth (v : Word) : Statement (.ctlSetBitdepth v) :=
  fun _ => ⟨fixedRow 0x09000000 .u64, by decide, admits_commandWord 0 9 (by decide), rfl⟩

theorem ctlSetEndian (v : Word) : Statement (.ctlSetEndian v) :=
  fun _ => ⟨fixedRow 0x0A000000 .u64, by decide, admits_commandWord 0 10 (by decide), rfl⟩

theorem ctlSetRate (v : Word) : Statement (.ctlSetRate v) :=
  fun _ => ⟨fixedRow 0x0B000000 .u64, by decide, admits_commandWord 0 11 (by decide), rfl⟩

theorem ctlSetChannels (v : Word) : Statement (.ctlSetChannels v) :=
  fun _ => ⟨fixedRow 0x0C000000 .u64, by decide, admits_commandWord 0 12 (by decide), rfl⟩

theorem ctlReset : Statement (.ctlReset) :=
  fun _ => ⟨fixedRow 0x0D000000 .none, by decide, admits_commandWord 0 13 (by decide), rfl⟩

theorem bqSetType (v : Word) : Statement (.bqSetType v) :=
  fun _ => ⟨fixedRow 0x10000000 .u64, by decide, admits_commandWord 1 0 (by decide), rfl⟩

theorem bqSetFreq (v : F64) : Statement (.bqSetFreq v) :=
  fun _ => ⟨fixedRow 0x11000000 .f64, by decide, admits_commandWord 1 1 (by decide), rfl⟩

theorem bqSetQ (v : F64) : Statement (.bqSetQ v) :=
  fun _ => ⟨fixedRow 0x12000000 .f64, by decide, admits_commandWord 1 2 (by decide), rfl⟩

theorem bqSetGain (v : F64) : Statement (.bqSetGain v) :=
  fun _ => ⟨fixedRow 0x13000000 .f64, by decide, admits_commandWord 1 3 (by decide), rfl⟩

theorem bqEnable : Statement (.bqEnable) :=
  fun _ => ⟨fixedRow 0x14000000 .none, by decide, admits_commandWord 1 4 (by decide), rfl⟩

theorem bqDisable : Statement (.bqDisable) :=
  fun _ => ⟨fixedRow 0x15000000 .none, by decide, admits_commandWord 1 5 (by decide), rfl⟩

theorem cmpSetThreshold (v : F64) : Statement (.cmpSetThreshold v) :=
  fun _ => ⟨fixedRow 0x20000000 .f64, by decide, admits_commandWord 2 0 (by decide), rfl⟩

theorem cmpSetRatio (v : F64) : Statement (.cmpSetRatio v) :=
  fun _ => ⟨fixedRow 0x21000000 .f64, by decide, admits_commandWord 2 1 (by decide), rfl⟩

theorem cmpSetAttack (v : F64) : Statement (.cmpSetAttack v) :=
  fun _ => ⟨fixedRow 0x22000000 .f64, by decide, admits_commandWord 2 2 (by decide), rfl⟩

theorem cmpSetRelease (v : F64) : Statement (.cmpSetRelease v) :=
  fun _ => ⟨fixedRow 0x23000000 .f64, by decide, admits_commandWord 2 3 (by decide), rfl⟩

theorem cmpSetMakeup (v : F64) : Statement (.cmpSetMakeup v) :=
  fun _ => ⟨fixedRow 0x24000000 .f64, by decide, admits_commandWord 2 4 (by decide), rfl⟩

theorem cmpSetKnee (v : F64) : Statement (.cmpSetKnee v) :=
  fun _ => ⟨fixedRow 0x25000000 .f64, by decide, admits_commandWord 2 5 (by decide), rfl⟩

theorem cmpEnable : Statement (.cmpEnable) :=
  fun _ => ⟨fixedRow 0x26000000 .none, by decide, admits_commandWord 2 6 (by decide), rfl⟩

theorem cmpDisable : Statement (.cmpDisable) :=
  fun _ => ⟨fixedRow 0x27000000 .none, by decide, admits_commandWord 2 7 (by decide), rfl⟩

theorem rvbSetRoom (v : F64) : Statement (.rvbSetRoom v) :=
  fun _ => ⟨fixedRow 0x30000000 .f64, by decide, admits_commandWord 3 0 (by decide), rfl⟩

theorem rvbSetDamping (v : F64) : Statement (.rvbSetDamping v) :=
  fun _ => ⟨fixedRow 0x31000000 .f64, by decide, admits_commandWord 3 1 (by decide), rfl⟩

theorem rvbSetWet (v : F64) : Statement (.rvbSetWet v) :=
  fun _ => ⟨fixedRow 0x32000000 .f64, by decide, admits_commandWord 3 2 (by decide), rfl⟩

theorem rvbSetDry (v : F64) : Statement (.rvbSetDry v) :=
  fun _ => ⟨fixedRow 0x33000000 .f64, by decide, admits_commandWord 3 3 (by decide), rfl⟩

theorem rvbEnable : Statement (.rvbEnable) :=
  fun _ => ⟨fixedRow 0x34000000 .none, by decide, admits_commandWord 3 4 (by decide), rfl⟩

theorem rvbDisable : Statement (.rvbDisable) :=
  fun _ => ⟨fixedRow 0x35000000 .none, by decide, admits_commandWord 3 5 (by decide), rfl⟩

theorem volSetVolume (v : F64) : Statement (.volSetVolume v) :=
  fun _ => ⟨fixedRow 0x40000000 .f64, by decide, admits_commandWord 4 0 (by decide), rfl⟩

theorem volEnable : Statement (.volEnable) :=
  fun _ => ⟨fixedRow 0x41000000 .none, by decide, admits_commandWord 4 1 (by decide), rfl⟩

theorem volDisable : Statement (.volDisable) :=
  fun _ => ⟨fixedRow 0x42000000 .none, by decide, admits_commandWord 4 2 (by decide), rfl⟩

theorem seekSetDuration (v : F64) : Statement (.seekSetDuration v) :=
  fun _ => ⟨fixedRow 0x50000000 .f64, by decide, admits_commandWord 5 0 (by decide), rfl⟩

theorem seekSeek (v : F64) : Statement (.seekSeek v) :=
  fun _ => ⟨fixedRow 0x51000000 .f64, by decide, admits_commandWord 5 1 (by decide), rfl⟩

end Sys2Proof.Laws.TableWord
end

