-- ==== Sys2Proof/Certificates/Slice0/Obligations.lean ====
section
/-!
DEFINITION. The statements for the provers, file by file of spec/. "next" is `Host.Outcome.next`; the
names of states a command ends in (`State.completed`, `State.rejected`, `State.reconfigured`,
`State.released`), of the invariants and of the number predicates are those of Safety.lean.
-/

open Sys2Proof Sys2Proof.Machine

/-! ### Encoding and stepping (30_encoding.md) -/

/-- Decoding what the encoder wrote gives the instruction back, with every operand at every value the
encoding admits, and leaves the bytes behind it (R300 to R315). -/
def Obligations.DecodeEncodeRoundTrip : Prop :=
  ∀ (i : Instr) (rest : List Byte), i.wf = true → decode (encode i ++ rest) = .ok (i, rest)

/-- The decoder accepts nothing but the encoder's own words: no second spelling of any command. -/
def Obligations.DecoderAcceptsOnlyEncodings : Prop :=
  ∀ (bytes rest : List Byte) (c : Command) (i : Instr),
    takeCommand bytes = some (c, rest) → decodeCommand c = .ok i → i.wf = true ∧ toCommand i = c

/-- The decoder accepts exactly the words of the 39 table rows, with an operand the row's kind allows;
and no word belongs to two rows (R316, R302). -/
def Obligations.LegalCommandWords : Prop :=
  (∀ c : Command,
    (∃ i, decodeCommand c = .ok i) ↔
      ∃ r ∈ opcodeTable, r.admits c.cw = true ∧ operandAllowed r.kind c.opnd = true) ∧
    opcodeTable.length = 39 ∧
    opcodeTable.Pairwise fun a b => ∀ cw, ¬ (a.admits cw = true ∧ b.admits cw = true)

/-- The order of the decoder's checks: the first that fails names the error (R322). -/
def Obligations.DecodeCheckOrder : Prop :=
  ∀ c : Command,
    let unit := cwUnit c.cw
    let op := cwOp c.cw
    let subOk := cwSub c.cw ≤ (if unit = 0 ∧ op = 5 then 1 else 0)
    let immOk := (unit = 0 ∧ op = 6) ∨ cwImm c.cw = 0
    (decodeCommand c = .error .reservedUnit ↔ 6 ≤ unit) ∧
      (decodeCommand c = .error .reservedOp ↔ unit < 6 ∧ opCount unit ≤ op) ∧
      (decodeCommand c = .error .badSub ↔ op < opCount unit ∧ ¬ subOk) ∧
      (decodeCommand c = .error .badImm ↔ op < opCount unit ∧ subOk ∧ ¬ immOk) ∧
      (decodeCommand c = .error .badOperand ↔
        ∃ r ∈ opcodeTable, r.admits c.cw = true ∧ operandAllowed r.kind c.opnd = false) ∧
      decodeCommand c ≠ .error .incomplete

/-- A command's length comes from its first 12 bytes alone: 12, and for CW[31:24] = 0x03 the payload of
OPND[31:0] bytes and its pad; always a multiple of 4 (R304, R208). -/
def Obligations.CommandLength : Prop :=
  ∀ bytes : List Byte,
    let cw := BitVec.ofNat 32 (leNat (bytes.take 4))
    let opnd := BitVec.ofNat 64 (leNat ((bytes.drop 4).take 8))
    let n := if cw.toNat / 2 ^ 24 = 0x03 then opnd.toNat % 2 ^ 32 else 0
    let total := 12 + n + (4 - n % 4) % 4
    total % 4 = 0 ∧
      (bytes.length < 12 → takeCommand bytes = none) ∧
      (12 ≤ bytes.length → bytes.length < total → takeCommand bytes = none) ∧
      (total ≤ bytes.length →
        takeCommand bytes = some (⟨cw, opnd, (bytes.drop 12).take n⟩, bytes.drop total))

/-- When the bytes at the head of the command port decode to an instruction, a step is `exec` of it
with those bytes consumed. -/
def Obligations.StepRunsDecodedCommand : Prop :=
  ∀ (s : State) (i : Instr) (rest : List Byte),
    decode s.port = .ok (i, rest) → step s = exec i { s with port := rest }

/-- A whole command that no table row admits, or whose operand the row's kind does not allow, is
consumed and raises ILLEGAL_COMMAND with no other effect (R320). -/
def Obligations.IllegalEncodingRejected : Prop :=
  ∀ (s : State) (c : Command) (rest : List Byte),
    takeCommand s.port = some (c, rest) →
    (∀ r ∈ opcodeTable, r.admits c.cw = true → operandAllowed r.kind c.opnd = false) →
      step s = .next (({ s with port := rest } : State).rejected .illegalCommand)

/-- The core steps exactly when a whole command stands on the port, else no step is enabled (R1040,
R1042). That the model answers a fault there, portEmpty or commandCutShort, is its own choice
(assumption log 4). A step never refuses. -/
def Obligations.CoreWaitsForWholeCommand : Prop :=
  ∀ s : State,
    ((∃ t, step s = .next t) ↔ takeCommand s.port ≠ none) ∧
      (step s = .fault .portEmpty ↔ s.port = []) ∧
      (step s = .fault .commandCutShort ↔ s.port ≠ [] ∧ takeCommand s.port = none) ∧
      ∀ r, step s ≠ .refused r

/-- Every command, with every operand, in every state, ends in a next state (R1042). -/
def Obligations.EveryCommandCompletes : Prop :=
  ∀ (i : Instr) (s : State), ∃ t, exec i s = .next t

/-- Words written out by hand from R310 to R315 decode to the commands they stand for. -/
def Obligations.DecodesWrittenWords : Prop :=
  decodeCommand ⟨0x06000201#32, 0#64, []⟩ = .ok (.ctlReadReg 0x0201#16) ∧
    decodeCommand ⟨0x05010000#32, 0#64, []⟩ = .ok (.ctlStreamError .ioFailure) ∧
    decodeCommand ⟨0x03000000#32, 3#64, [1#8, 2#8, 3#8]⟩ = .ok (.ctlPush [1#8, 2#8, 3#8]) ∧
    decodeCommand ⟨0x10000000#32, 1#64, []⟩ = .ok (.bqSetType 1#64) ∧
    decodeCommand ⟨0x20000000#32, 0xC024000000000000#64, []⟩ =
      .ok (.cmpSetThreshold 0xC024000000000000#64) ∧
    decodeCommand ⟨0x33000000#32, 0x3FE0000000000000#64, []⟩ = .ok (.rvbSetDry 0x3FE0000000000000#64) ∧
    decodeCommand ⟨0x40000000#32, 0x4049000000000000#64, []⟩ =
      .ok (.volSetVolume 0x4049000000000000#64) ∧
    decodeCommand ⟨0x51000000#32, 0xC07F400000000000#64, []⟩ = .ok (.seekSeek 0xC07F400000000000#64) ∧
    decodeCommand ⟨0x00010000#32, 0#64, []⟩ = .error .badSub

/-! ### Reset (70_reset_and_hazards.md) -/

/-- The reset values, row by row of R1100 (the registers by their addresses), and that CTL.RESET puts every
item of the spec's state there too. -/
def Obligations.ResetValues : Prop :=
  let s := State.reset
  (s.phase = .idle ∧ s.lastErr.code = 0 ∧ s.errSticky = false ∧ s.status = 0 ∧ s.irq = false ∧
    s.evq = [] ∧ s.res0 = 0 ∧ s.res1 = 0 ∧ s.res2 = 0 ∧ s.res3 = 0 ∧ s.out = []) ∧
  (s.readReg 0x0003 = some 0x44504331 ∧ s.readReg 0x0010 = some 16 ∧ s.readReg 0x0011 = some 0 ∧
    s.readReg 0x0012 = some 48000 ∧ s.readReg 0x0013 = some 2 ∧ s.readReg 0x0014 = some 2 ∧
    s.readReg 0x0015 = some 32768 ∧ s.readReg 0x0016 = some 4) ∧
  (s.readReg 0x0100 = some 0 ∧ s.readReg 0x0101 = some 0 ∧ s.readReg 0x0102 = some f64Thousand ∧
    s.readReg 0x0103 = some 0x3FE6A09E667F3BCD ∧ s.readReg 0x0104 = some f64Zero ∧
    s.readReg 0x0105 = some 0x3FE6A09E667F3BCD ∧ s.bq.coeffs = ⟨f64One, 0, 0, 0, 0⟩ ∧
    ∀ k, s.bq.hist.read k = f64Zero) ∧
  (s.cmp.en = false ∧ s.cmp.threshold = f64Zero ∧ s.cmp.ratio = f64One ∧ s.cmp.attackMs = f64Zero ∧
    s.cmp.releaseMs = f64Zero ∧ s.cmp.makeup = f64Zero ∧ s.cmp.knee = f64Zero ∧
    s.cmp.attackC = f64Zero ∧ s.cmp.releaseC = f64Zero ∧ s.cmp.env = f64Zero ∧ s.cmp.gr = f64Zero) ∧
  (s.rvb.en = false ∧ s.rvb.room = f64Zero ∧ s.rvb.damping = f64Zero ∧ s.rvb.wet = f64Zero ∧
    s.rvb.dry = f64One ∧ s.rvb.lineLen = 0 ∧ s.rvb.cursor = 0 ∧ s.rvb.line = [] ∧
    (∃ w, s.readReg 0x0307 = some w ∧ (Config.nLines < 2 ^ 64 → w.toNat = Config.nLines)) ∧
    s.readReg 0x0308 = some Config.feedback) ∧
  (s.vol.en = false ∧ s.vol.volume = f64Hundred ∧ s.vol.gain = f64One ∧ s.seek.totalMs = f64Zero ∧
    s.seek.pos = 0 ∧ s.readReg 0x0502 = some 0 ∧ s.readReg 0x0503 = some 0 ∧
    s.readReg 0x0504 = some 0 ∧ s.seek.left = []) ∧
  ∀ u : State, ∃ t, exec .ctlReset u = .next t ∧ { t with port := s.port, free := s.free } = s

/-- Every invariant stated below holds right after reset. -/
def Obligations.InvariantsHoldAtReset : Prop :=
  State.reset.cellsOk ∧ State.reset.paramsOk ∧ State.reset.derivedOk ∧ State.reset.stickyOk ∧
    State.reset.geo.chans ∣ State.reset.seek.pos.toNat

/-- CTL.RESET puts every item of the spec's state at its reset value, in either phase. The bytes still on
the port and the counter of free values are the model's own fields and stay, which is the model's
choice (assumption log 1, 3, 6). -/
def Obligations.SoftReset : Prop :=
  decodeCommand ⟨0x0D000000#32, 0#64, []⟩ = .ok .ctlReset ∧
  ∀ s : State, exec .ctlReset s = .next { State.reset with port := s.port, free := s.free }

/-! ### Errors, events and result registers (10_state.md, 60_exceptions.md) -/

/-- A command that ends in an error changes LAST_ERR and ERR_STICKY and consumes its bytes; nothing
else changes (R1002, R1031). -/
def Obligations.RejectedCommandHasNoEffect : Prop :=
  ∀ (s t : State) (c : Command) (rest : List Byte),
    takeCommand s.port = some (c, rest) → step s = .next t → t.lastErr ≠ .ok →
      t = ({ s with port := rest } : State).rejected t.lastErr

/-- ERR_STICKY: set by every command that ends in an error, kept by every other, cleared by ACK_ERR and
RESET alone, seen in STATUS bit 1, 0 after reset (R105). -/
def Obligations.StickyErrorBit : Prop :=
  State.reset.errSticky = false ∧ (∀ s : State, s.status.getLsbD 1 = s.errSticky) ∧
  ∀ (s t : State) (c : Command) (rest : List Byte),
    takeCommand s.port = some (c, rest) → step s = .next t →
      (t.lastErr ≠ .ok → t.errSticky = true) ∧
        (t.lastErr = .ok → decodeCommand c ≠ .ok .ctlAckErr → decodeCommand c ≠ .ok .ctlReset →
          t.errSticky = s.errSticky) ∧
        (decodeCommand c = .ok .ctlAckErr ∨ decodeCommand c = .ok .ctlReset → t.errSticky = false)

/-- A command posts at most one event, at the queue's tail; POP_EVENT alone takes one, from its head;
RESET alone clears the queue (R107, R431, and R1012, which the spec derives from the command rules). -/
def Obligations.AtMostOneEvent : Prop :=
  ∀ (i : Instr) (s t : State), exec i s = .next t →
    (i = .ctlReset → t.evq = []) ∧
      (i = .ctlPopEvent → t.evq = s.evq.tail) ∧
      (i ≠ .ctlReset → i ≠ .ctlPopEvent → t.evq = s.evq ∨ ∃ ev, t.evq = s.evq ++ [ev])

/-- RECONFIG: every accepted setter, enable or disable posts one, with the address of the register it
names and the value that register holds afterwards; no other command posts one (R1011). -/
def Obligations.ReconfigEventMatchesRegister : Prop :=
  ∀ (i : Instr) (s t : State), exec i s = .next t →
    (∀ a, setterAddress i = some a → t.lastErr = .ok →
      ∃ v, t.readReg a = some v ∧ t.evq = s.evq ++ [.reconfig a v]) ∧
      (setterAddress i = none → i ≠ .ctlReset → i ≠ .ctlPopEvent →
        t.evq = s.evq ∨ ∃ ev, (∀ a v, ev ≠ .reconfig a v) ∧ t.evq = s.evq ++ [ev])

/-- The result registers. RESET clears all four. POP_EVENT writes all four, with the head of the queue in
the encoding of R1010, or zeros from an empty queue. An accepted READ_REG writes the register's value to
RES0, an accepted SEEK the resolved time, or +0.0 where no duration is set. Every other command, and every
command that ends in an error, leaves them (R108, R405, R430, R431, R931). -/
def Obligations.ResultRegisters : Prop :=
  ∀ (i : Instr) (s t : State), exec i s = .next t →
    (i = .ctlReset → t.res0 = 0 ∧ t.res1 = 0 ∧ t.res2 = 0 ∧ t.res3 = 0) ∧
      (i = .ctlPopEvent →
        (t.res0, t.res1, t.res2, t.res3) =
          match s.evq with
          | [] => ((0, 0, 0, 0) : Word × Word × Word × Word)
          | .reconfig a v :: _ => (1, a.setWidth 64, v, 0)
          | .seek r p b :: _ => (2, r, p, b)
          | .error code :: _ => (3, code, 0, 0)) ∧
      (∀ a, i = .ctlReadReg a → t.lastErr = .ok → s.readReg a = some t.res0) ∧
      (∀ v, i = .seekSeek v → t.lastErr = .ok →
        t.res0 = if feq s.seek.totalMs f64Zero then f64Zero else resolve s.seek.totalMs v) ∧
      (i ≠ .ctlReset → i ≠ .ctlPopEvent →
        (t.res1 = s.res1 ∧ t.res2 = s.res2 ∧ t.res3 = s.res3) ∧
          ((∀ a, i ≠ .ctlReadReg a) → (∀ v, i ≠ .seekSeek v) → t.res0 = s.res0) ∧
          (t.lastErr ≠ .ok → t.res0 = s.res0))

/-- OUT only grows, at its end, and by PUSH alone; RESET alone clears it (R109). -/
def Obligations.OutputOnlyGrows : Prop :=
  ∀ (i : Instr) (s t : State), exec i s = .next t →
    (i = .ctlReset → t.out = []) ∧
      (i ≠ .ctlReset → ∃ bytes, t.out = s.out ++ bytes ∧ (bytes ≠ [] → ∃ p, i = .ctlPush p))

/-- STATUS bit by bit, and the interrupt line: a level equal to bit 2, which is high while events are
queued, lowered by POP_EVENT and RESET alone, and not moved by an error (R106, R1030). -/
def Obligations.StatusAndInterrupt : Prop :=
  State.reset.status = 0 ∧
  (∀ s : State,
    s.status.getLsbD 0 = decide (s.phase = .active) ∧ s.status.getLsbD 1 = s.errSticky ∧
      s.status.getLsbD 2 = s.irq ∧ s.status.getLsbD 3 = s.seek.pend.isSome ∧
      (∀ k, 4 ≤ k → s.status.getLsbD k = false) ∧ (s.irq = true ↔ s.evq ≠ [])) ∧
    ∀ (i : Instr) (s t : State), exec i s = .next t →
      (t.lastErr ≠ .ok → t.irq = s.irq) ∧
        (s.irq = true → t.irq = false → i = .ctlPopEvent ∨ i = .ctlReset)

/-- PHASE is written by CREATE (to ACTIVE) and by teardown and reset (to IDLE) alone; bit depth,
endianness and channel count cannot change while ACTIVE (R103, R111, R112, R114). -/
def Obligations.PhaseAndGeometryTransitions : Prop :=
  ∀ (i : Instr) (s t : State), exec i s = .next t →
    (i = .ctlCreate → t.phase = .active) ∧
      (t.phase = .active → s.phase = .idle → i = .ctlCreate) ∧
      (t.phase = .idle → s.phase = .active →
        i = .ctlDestroy ∨ i = .ctlEnd ∨ i = .ctlReset ∨ ∃ k, i = .ctlStreamError k) ∧
      (s.phase = .active → i ≠ .ctlReset →
        t.geo.bitdepth = s.geo.bitdepth ∧ t.geo.endian = s.geo.endian ∧
          t.geo.channels = s.geo.channels)

/-! ### Control commands (40_control.md) -/

/-- NOP, CREATE and DESTROY: the whole next state (R400, R401, R402, R410, R411). -/
def Obligations.LifecycleCommands : Prop :=
  (decodeCommand ⟨0x00000000#32, 0#64, []⟩ = .ok .ctlNop ∧
    decodeCommand ⟨0x01000000#32, 0#64, []⟩ = .ok .ctlCreate ∧
    decodeCommand ⟨0x02000000#32, 0#64, []⟩ = .ok .ctlDestroy) ∧
  ∀ s : State,
    exec .ctlNop s = .next s.completed ∧
      exec .ctlCreate s =
        .next
          { s with
            phase := .active
            lastErr := .ok
            bq := { s.bq with hist := [] }
            cmp := { s.cmp with env := 0, gr := 0 }
            rvb :=
              { s.rvb with
                lineLen := BitVec.ofNat 64 (max 1 (s.geo.rate.toNat / 20)), cursor := 0, line := [] }
            seek := { s.seek with pos := 0, pend := none, left := [] } } ∧
      (s.phase = .idle → exec .ctlDestroy s = .next s.completed) ∧
      (s.phase = .active → exec .ctlDestroy s = .next s.released.completed)

/-- END and STREAM_ERROR: the whole next state. END's flush finds no whole frame, because less than one
is ever left over (R403, R404). -/
def Obligations.EndAndStreamError : Prop :=
  (decodeCommand ⟨0x04000000#32, 0#64, []⟩ = .ok .ctlEnd ∧
    decodeCommand ⟨0x05000000#32, 0#64, []⟩ = .ok (.ctlStreamError .prematureClose) ∧
    decodeCommand ⟨0x05010000#32, 0#64, []⟩ = .ok (.ctlStreamError .ioFailure)) ∧
  ∀ s : State,
    (s.phase = .idle → exec .ctlEnd s = .next (s.rejected .notActive)) ∧
      (s.phase = .active → s.seek.left.length < s.geo.frameBytes →
        exec .ctlEnd s = .next s.released.completed) ∧
      (s.phase = .idle → ∀ k, exec (.ctlStreamError k) s = .next s.completed) ∧
      (s.phase = .active →
        exec (.ctlStreamError .prematureClose) s = .next s.released.completed ∧
          exec (.ctlStreamError .ioFailure) s =
            .next ({ s with evq := s.evq ++ [.error 1] } : State).released.completed)

/-- SET_BITDEPTH, SET_ENDIAN, SET_CHANNELS: locked in ACTIVE whatever the operand; in IDLE the legal
values are stored and every other is rejected (R420, R421, R423). -/
def Obligations.GeometrySetters : Prop :=
  (∀ v : Word,
    decodeCommand ⟨0x09000000#32, v, []⟩ = .ok (.ctlSetBitdepth v) ∧
      decodeCommand ⟨0x0A000000#32, v, []⟩ = .ok (.ctlSetEndian v) ∧
      decodeCommand ⟨0x0C000000#32, v, []⟩ = .ok (.ctlSetChannels v)) ∧
  ∀ (s : State) (v : Word),
    (s.phase = .active →
      exec (.ctlSetBitdepth v) s = .next (s.rejected .geometryLocked) ∧
        exec (.ctlSetEndian v) s = .next (s.rejected .geometryLocked) ∧
        exec (.ctlSetChannels v) s = .next (s.rejected .geometryLocked)) ∧
      (s.phase = .idle →
        (∀ b : BitDepth, v = b.code →
          exec (.ctlSetBitdepth v) s =
            .next (({ s with geo := { s.geo with bitdepth := b } } : State).reconfigured 0x0010 v)) ∧
          (v ≠ 16 → v ≠ 32 → exec (.ctlSetBitdepth v) s = .next (s.rejected .unsupportedFormat)) ∧
          (∀ e : Endian, v = e.code →
            exec (.ctlSetEndian v) s =
              .next (({ s with geo := { s.geo with endian := e } } : State).reconfigured 0x0011 v)) ∧
          (v ≠ 0 → v ≠ 1 → exec (.ctlSetEndian v) s = .next (s.rejected .unsupportedFormat)) ∧
          (1 ≤ v.toNat → v.toNat ≤ Config.maxChannels →
            exec (.ctlSetChannels v) s =
              .next (({ s with geo := { s.geo with channels := v } } : State).reconfigured 0x0013 v)) ∧
          (v.toNat = 0 ∨ Config.maxChannels < v.toNat →
            exec (.ctlSetChannels v) s = .next (s.rejected .badChannels)))

/-- SET_RATE, in either phase: its checks in order, and the rate, the coefficients and the two smoothing
coefficients written together; LINE and RVB_LINE_LEN are not touched (R422). -/
def Obligations.SetRateEffect : Prop :=
  (∀ v : Word,
    decodeCommand ⟨0x0B000000#32, v, []⟩ = .ok (.ctlSetRate v)) ∧
  ∀ (s : State) (v : Word),
    let fs := toF64 (v.toNat : Int)
    let c := design s.bq.type fs s.bq.freq s.bq.q s.bq.gain
    (v.toNat = 0 ∨ Config.maxRate < v.toNat →
      exec (.ctlSetRate v) s = .next (s.rejected .badRate)) ∧
      (1 ≤ v.toNat → v.toNat ≤ Config.maxRate →
        (flt fs (fmul f64Two s.bq.freq) = true →
          exec (.ctlSetRate v) s = .next (s.rejected .badFrequency)) ∧
          (flt fs (fmul f64Two s.bq.freq) = false → c.finite = false →
            exec (.ctlSetRate v) s = .next (s.rejected .badParam)) ∧
          (flt fs (fmul f64Two s.bq.freq) = false → c.finite = true →
            exec (.ctlSetRate v) s =
              .next
                (({ s with
                    geo := { s.geo with rate := v }
                    bq := { s.bq with coeffs := c }
                    cmp :=
                      { s.cmp with
                        attackC := coefOf fs s.cmp.attackMs
                        releaseC := coefOf fs s.cmp.releaseMs } } : State).reconfigured 0x0012 v)))

/-- READ_REG: exactly the addresses R160 defines are readable, and reading one writes RES0 and nothing
else; any other raises BAD_REGISTER (R160, R430, R211). -/
def Obligations.ReadRegEffect : Prop :=
  (∀ a : BitVec 16,
    decodeCommand ⟨0x06000000#32 ||| a.setWidth 32, 0#64, []⟩ = .ok (.ctlReadReg a)) ∧
  ∀ (s : State) (a : BitVec 16),
    (definedAddress s.geo.chans a.toNat →
      ∃ v, s.readReg a = some v ∧
        exec (.ctlReadReg a) s = .next ({ s with res0 := v } : State).completed) ∧
      (¬ definedAddress s.geo.chans a.toNat →
        s.readReg a = none ∧ exec (.ctlReadReg a) s = .next (s.rejected .badRegister))

/-- What every register address reads as (R104 to R160), and the numbers behind the names: the error codes
0 to 13 (R1001), the filter types 0 to 10 (R501), little endian 0 and big endian 1 (R112), the bit depths
16 and 32 (R111), a bool 0 or 1. That EVQ_COUNT and RVB_NUM_LINES show a count of 2^64 or more modulo 2^64
is the model's choice (assumption log 18). -/
def Obligations.RegisterMap : Prop :=
  (ErrCode.code .ok = 0 ∧ ErrCode.code .illegalCommand = 1 ∧ ErrCode.code .badRegister = 2 ∧
    ErrCode.code .notActive = 3 ∧ ErrCode.code .unsupportedFormat = 4 ∧ ErrCode.code .badRate = 5 ∧
    ErrCode.code .badChannels = 6 ∧ ErrCode.code .geometryLocked = 7 ∧
    ErrCode.code .badFilterType = 8 ∧ ErrCode.code .badFrequency = 9 ∧ ErrCode.code .badQ = 10 ∧
    ErrCode.code .badParam = 11 ∧ ErrCode.code .badVolume = 12 ∧ ErrCode.code .badDuration = 13) ∧
  (FilterType.code .none = 0 ∧ FilterType.code .lowpass = 1 ∧ FilterType.code .highpass = 2 ∧
    FilterType.code .bandpass = 3 ∧ FilterType.code .notch = 4 ∧ FilterType.code .allpass = 5 ∧
    FilterType.code .peakingEq = 6 ∧ FilterType.code .lowshelf = 7 ∧ FilterType.code .highshelf = 8 ∧
    FilterType.code .singlePoleLowpass = 9 ∧ FilterType.code .singlePoleLowpassApprox = 10) ∧
  (Endian.code .little = 0 ∧ Endian.code .big = 1 ∧ BitDepth.code .b16 = 16 ∧ BitDepth.code .b32 = 32 ∧
    boolWord false = 0 ∧ boolWord true = 1) ∧
  ∀ s : State,
    (s.readReg 0x0000 = some s.status ∧ s.readReg 0x0001 = some s.lastErr.code ∧
      s.readReg 0x0002 = some (BitVec.ofNat 64 s.evq.length) ∧ s.readReg 0x0003 = some 0x44504331 ∧
      s.readReg 0x0010 = some s.geo.bitdepth.code ∧ s.readReg 0x0011 = some s.geo.endian.code ∧
      s.readReg 0x0012 = some s.geo.rate ∧ s.readReg 0x0013 = some s.geo.channels ∧
      s.readReg 0x0014 = some (s.geo.bitdepth.code / 8) ∧
      s.readReg 0x0015 = some (if s.geo.bitdepth = .b16 then 32768 else 2147483648) ∧
      s.readReg 0x0016 = some (s.geo.bitdepth.code / 8 * s.geo.channels)) ∧
    (s.readReg 0x0100 = some (boolWord s.bq.en) ∧ s.readReg 0x0101 = some s.bq.type.code ∧
      s.readReg 0x0102 = some s.bq.freq ∧ s.readReg 0x0103 = some s.bq.q ∧
      s.readReg 0x0104 = some s.bq.gain ∧ s.readReg 0x0105 = some 0x3FE6A09E667F3BCD ∧
      s.readReg 0x0108 = some s.bq.coeffs.b0 ∧ s.readReg 0x0109 = some s.bq.coeffs.b1 ∧
      s.readReg 0x010A = some s.bq.coeffs.b2 ∧ s.readReg 0x010B = some s.bq.coeffs.a1 ∧
      s.readReg 0x010C = some s.bq.coeffs.a2) ∧
    (s.readReg 0x0200 = some (boolWord s.cmp.en) ∧ s.readReg 0x0201 = some s.cmp.threshold ∧
      s.readReg 0x0202 = some s.cmp.ratio ∧ s.readReg 0x0203 = some s.cmp.attackMs ∧
      s.readReg 0x0204 = some s.cmp.releaseMs ∧ s.readReg 0x0205 = some s.cmp.makeup ∧
      s.readReg 0x0206 = some s.cmp.knee ∧ s.readReg 0x0207 = some s.cmp.attackC ∧
      s.readReg 0x0208 = some s.cmp.releaseC ∧ s.readReg 0x0209 = some s.cmp.env ∧
      s.readReg 0x020A = some s.cmp.gr) ∧
    (s.readReg 0x0300 = some (boolWord s.rvb.en) ∧ s.readReg 0x0301 = some s.rvb.room ∧
      s.readReg 0x0302 = some s.rvb.damping ∧ s.readReg 0x0303 = some s.rvb.wet ∧
      s.readReg 0x0304 = some s.rvb.dry ∧ s.readReg 0x0305 = some s.rvb.lineLen ∧
      s.readReg 0x0306 = some s.rvb.cursor ∧
      s.readReg 0x0307 = some (BitVec.ofNat 64 Config.nLines) ∧
      s.readReg 0x0308 = some Config.feedback) ∧
    (s.readReg 0x0400 = some (boolWord s.vol.en) ∧ s.readReg 0x0401 = some s.vol.volume ∧
      s.readReg 0x0402 = some s.vol.gain ∧ s.readReg 0x0500 = some s.seek.totalMs ∧
      s.readReg 0x0501 = some s.seek.pos ∧ s.readReg 0x0502 = some (boolWord s.seek.pend.isSome) ∧
      s.readReg 0x0503 = some (s.seek.pend.getD 0) ∧
      s.readReg 0x0504 = some (BitVec.ofNat 64 s.seek.left.length)) ∧
    ∀ c k : Nat, c < s.geo.chans → c < 4096 → k < 4 →
      s.readReg (BitVec.ofNat 16 (0x4000 + 4 * c + k)) = some (s.bq.hist.read (4 * c + k))

/-- POP_EVENT takes the head of the queue into RES0 to RES3, with the encoding of R1010, and answers four
zeros from an empty queue; ACK_ERR clears ERR_STICKY and nothing else (R431, R1010, R432). -/
def Obligations.PopEventAndAckErr : Prop :=
  (decodeCommand ⟨0x07000000#32, 0#64, []⟩ = .ok .ctlPopEvent ∧
    decodeCommand ⟨0x08000000#32, 0#64, []⟩ = .ok .ctlAckErr) ∧
  (∀ s : State, s.evq = [] →
    exec .ctlPopEvent s =
      .next ({ s with res0 := 0, res1 := 0, res2 := 0, res3 := 0 } : State).completed) ∧
    (∀ (s : State) (evs : List Event) (a : BitVec 16) (v : Word), s.evq = .reconfig a v :: evs →
      exec .ctlPopEvent s =
        .next
          ({ s with evq := evs, res0 := 1, res1 := a.setWidth 64, res2 := v, res3 := 0 } :
            State).completed) ∧
    (∀ (s : State) (evs : List Event) (r : F64) (p b : Word), s.evq = .seek r p b :: evs →
      exec .ctlPopEvent s =
        .next ({ s with evq := evs, res0 := 2, res1 := r, res2 := p, res3 := b } : State).completed) ∧
    (∀ (s : State) (evs : List Event) (code : Word), s.evq = .error code :: evs →
      exec .ctlPopEvent s =
        .next ({ s with evq := evs, res0 := 3, res1 := code, res2 := 0, res3 := 0 } : State).completed) ∧
    ∀ s : State, exec .ctlAckErr s = .next { s with errSticky := false, lastErr := .ok }

/-! ### BQ (42_biquad.md) -/

/-- The four BQ setters: their checks in order, and the parameter and the five coefficients written
together; the history is kept (R530 to R533, R510). -/
def Obligations.BqSetters : Prop :=
  (∀ v : Word,
    decodeCommand ⟨0x10000000#32, v, []⟩ = .ok (.bqSetType v) ∧
      decodeCommand ⟨0x11000000#32, v, []⟩ = .ok (.bqSetFreq v) ∧
      decodeCommand ⟨0x12000000#32, v, []⟩ = .ok (.bqSetQ v) ∧
      decodeCommand ⟨0x13000000#32, v, []⟩ = .ok (.bqSetGain v)) ∧
  ∀ (s : State) (v : F64),
    ((10 < v.toNat → exec (.bqSetType v) s = .next (s.rejected .badFilterType)) ∧
      ∀ t : FilterType, v = t.code →
        exec (.bqSetType v) s =
          .next
            (if (design t s.geo.rateF s.bq.freq s.bq.q s.bq.gain).finite = true then
              ({ s with
                  bq :=
                    { s.bq with
                      type := t
                      coeffs := design t s.geo.rateF s.bq.freq s.bq.q s.bq.gain } } :
                State).reconfigured 0x0101 v
            else s.rejected .badParam)) ∧
    (exec (.bqSetFreq v) s =
      .next
        (if f64IsFinite v = false ∨ flt v f64Zero = true ∨
            flt s.geo.rateF (fmul f64Two (if feq v f64Zero then f64Zero else v)) = true then
          s.rejected .badFrequency
        else
          let f := if feq v f64Zero then f64Zero else v
          if (design s.bq.type s.geo.rateF f s.bq.q s.bq.gain).finite = true then
            ({ s with
                bq :=
                  { s.bq with
                    freq := f
                    coeffs := design s.bq.type s.geo.rateF f s.bq.q s.bq.gain } } :
              State).reconfigured 0x0102 f
          else s.rejected .badParam)) ∧
    (exec (.bqSetQ v) s =
      .next
        (if f64IsFinite v = false ∨ flt f64Zero v = false then s.rejected .badQ
        else if (design s.bq.type s.geo.rateF s.bq.freq v s.bq.gain).finite = true then
          ({ s with
              bq :=
                { s.bq with
                  q := v
                  coeffs := design s.bq.type s.geo.rateF s.bq.freq v s.bq.gain } } :
            State).reconfigured 0x0103 v
        else s.rejected .badParam)) ∧
    exec (.bqSetGain v) s =
      .next
        (if f64IsFinite v = false then s.rejected .badParam
        else if (design s.bq.type s.geo.rateF s.bq.freq s.bq.q v).finite = true then
          ({ s with
              bq :=
                { s.bq with
                  gain := v
                  coeffs := design s.bq.type s.geo.rateF s.bq.freq s.bq.q v } } :
            State).reconfigured 0x0104 v
        else s.rejected .badParam)

/-- The eight enables and disables: one bit and one event each, in every state; running state is kept
(R534, R535, R636, R637, R734, R735, R831, R832). -/
def Obligations.EnableDisable : Prop :=
  (decodeCommand ⟨0x14000000#32, 0#64, []⟩ = .ok .bqEnable ∧
    decodeCommand ⟨0x15000000#32, 0#64, []⟩ = .ok .bqDisable ∧
    decodeCommand ⟨0x26000000#32, 0#64, []⟩ = .ok .cmpEnable ∧
    decodeCommand ⟨0x27000000#32, 0#64, []⟩ = .ok .cmpDisable ∧
    decodeCommand ⟨0x34000000#32, 0#64, []⟩ = .ok .rvbEnable ∧
    decodeCommand ⟨0x35000000#32, 0#64, []⟩ = .ok .rvbDisable ∧
    decodeCommand ⟨0x41000000#32, 0#64, []⟩ = .ok .volEnable ∧
    decodeCommand ⟨0x42000000#32, 0#64, []⟩ = .ok .volDisable) ∧
  ∀ s : State,
    exec .bqEnable s = .next (({ s with bq := { s.bq with en := true } } : State).reconfigured 0x0100 1) ∧
    exec .bqDisable s = .next (({ s with bq := { s.bq with en := false } } : State).reconfigured 0x0100 0) ∧
    exec .cmpEnable s = .next (({ s with cmp := { s.cmp with en := true } } : State).reconfigured 0x0200 1) ∧
    exec .cmpDisable s = .next (({ s with cmp := { s.cmp with en := false } } : State).reconfigured 0x0200 0) ∧
    exec .rvbEnable s = .next (({ s with rvb := { s.rvb with en := true } } : State).reconfigured 0x0300 1) ∧
    exec .rvbDisable s = .next (({ s with rvb := { s.rvb with en := false } } : State).reconfigured 0x0300 0) ∧
    exec .volEnable s = .next (({ s with vol := { s.vol with en := true } } : State).reconfigured 0x0400 1) ∧
    exec .volDisable s = .next (({ s with vol := { s.vol with en := false } } : State).reconfigured 0x0400 0)

/-- The reference design of every filter type but NONE, formula by formula, for every fs, f, q and g
(R512, R514 to R519, R521 to R524). Types 1 to 8 are normalised by a0. -/
def Obligations.FilterDesigns : Prop :=
  ∀ fs f q g : F64,
    let omega := fdiv (fmul (fmul f64Two f64Pi) f) fs
    let sn := libmSin omega
    let cs := libmCos omega
    let alpha := fdiv sn (fmul f64Two q)
    let A := libmPow10 (fdiv g f64Forty)
    let sA := fsqrt A
    let byA0 : F64 → F64 → F64 → F64 → F64 → F64 → Coeffs := fun b0 b1 b2 a0 a1 a2 =>
      { b0 := fdiv b0 a0, b1 := fdiv b1 a0, b2 := fdiv b2 a0, a1 := fdiv a1 a0, a2 := fdiv a2 a0 }
    design .lowpass fs f q g =
        byA0 (fmul (fsub f64One cs) f64Half) (fsub f64One cs) (fmul (fsub f64One cs) f64Half)
          (fadd f64One alpha) (fmul f64NegTwo cs) (fsub f64One alpha) ∧
      design .highpass fs f q g =
        byA0 (fmul (fadd f64One cs) f64Half) (fneg (fadd f64One cs)) (fmul (fadd f64One cs) f64Half)
          (fadd f64One alpha) (fmul f64NegTwo cs) (fsub f64One alpha) ∧
      design .bandpass fs f q g =
        byA0 (fdiv sn f64Two) f64Zero (fneg (fdiv sn f64Two))
          (fadd f64One alpha) (fmul f64NegTwo cs) (fsub f64One alpha) ∧
      design .notch fs f q g =
        byA0 f64One (fmul f64NegTwo cs) f64One
          (fadd f64One alpha) (fmul f64NegTwo cs) (fsub f64One alpha) ∧
      design .allpass fs f q g =
        byA0 (fsub f64One alpha) (fmul f64NegTwo cs) (fadd f64One alpha)
          (fadd f64One alpha) (fmul f64NegTwo cs) (fsub f64One alpha) ∧
      design .peakingEq fs f q g =
        byA0 (fadd f64One (fmul alpha A)) (fmul f64NegTwo cs) (fsub f64One (fmul alpha A))
          (fadd f64One (fdiv alpha A)) (fmul f64NegTwo cs) (fsub f64One (fdiv alpha A)) ∧
      design .lowshelf fs f q g =
        byA0
          (fmul A
            (fadd (fsub (fadd A f64One) (fmul (fsub A f64One) cs)) (fmul (fmul f64Two alpha) sA)))
          (fmul (fmul f64Two A) (fsub (fsub A f64One) (fmul (fadd A f64One) cs)))
          (fmul A
            (fsub (fsub (fadd A f64One) (fmul (fsub A f64One) cs)) (fmul (fmul f64Two alpha) sA)))
          (fadd (fadd (fadd A f64One) (fmul (fsub A f64One) cs)) (fmul (fmul f64Two alpha) sA))
          (fmul f64NegTwo (fadd (fsub A f64One) (fmul (fadd A f64One) cs)))
          (fsub (fadd (fadd A f64One) (fmul (fsub A f64One) cs)) (fmul (fmul f64Two alpha) sA)) ∧
      design .highshelf fs f q g =
        byA0
          (fmul A
            (fadd (fadd (fadd A f64One) (fmul (fsub A f64One) cs)) (fmul (fmul f64Two alpha) sA)))
          (fmul (fmul f64NegTwo A) (fadd (fsub A f64One) (fmul (fadd A f64One) cs)))
          (fmul A
            (fsub (fadd (fadd A f64One) (fmul (fsub A f64One) cs)) (fmul (fmul f64Two alpha) sA)))
          (fadd (fsub (fadd A f64One) (fmul (fsub A f64One) cs)) (fmul (fmul f64Two alpha) sA))
          (fmul f64Two (fsub (fsub A f64One) (fmul (fadd A f64One) cs)))
          (fsub (fsub (fadd A f64One) (fmul (fsub A f64One) cs)) (fmul (fmul f64Two alpha) sA)) ∧
      (let wt := libmTan (fdiv omega f64Two);
        design .singlePoleLowpass fs f q g =
          { b0 := fdiv wt (fadd f64One wt)
            b1 := fdiv wt (fadd f64One wt)
            b2 := f64Zero
            a1 := fdiv (fsub wt f64One) (fadd f64One wt)
            a2 := f64Zero }) ∧
      (let ap := fdiv omega (fadd omega f64One);
        design .singlePoleLowpassApprox fs f q g =
          { b0 := ap, b1 := f64Zero, b2 := f64Zero, a1 := fsub ap f64One, a2 := f64Zero })

/-- One BQ step: the output is the quantised difference equation; the channel's history is shifted, its
newest entries being the input and the unquantised output; no other channel's history and no other
register of the unit changes (R520). A NaN output is stored as some NaN. -/
def Obligations.BqHistoryShift : Prop :=
  ∀ (ext : Nat) (u : BqUnit) (ch : Nat) (v : Int) (free : Nat), u.hist.wf →
    let c := u.coeffs
    let x := toF64 v
    let x1 := u.hist.read (4 * ch)
    let x2 := u.hist.read (4 * ch + 1)
    let y1 := u.hist.read (4 * ch + 2)
    let y2 := u.hist.read (4 * ch + 3)
    let y :=
      fsub (fsub (fadd (fadd (fmul c.b0 x) (fmul c.b1 x1)) (fmul c.b2 x2)) (fmul c.a1 y1)) (fmul c.a2 y2)
    let r := bqStep ext u ch v free
    r.1 = quant ext y ∧
      r.2.1.hist.read (4 * ch) = x ∧ r.2.1.hist.read (4 * ch + 1) = x1 ∧
      r.2.1.hist.read (4 * ch + 3) = y1 ∧
      (f64IsNaN y = false → r.2.1.hist.read (4 * ch + 2) = y) ∧
      (f64IsNaN y = true → f64IsNaN (r.2.1.hist.read (4 * ch + 2)) = true) ∧
      (∀ k, k / 4 ≠ ch → r.2.1.hist.read k = u.hist.read k) ∧
      r.2.1.hist.wf ∧ { r.2.1 with hist := u.hist } = u

/-- The NONE design, whatever f, q and g are; and with it the output is the input and the stored output is
the input exactly, for every finite history (R513). -/
def Obligations.BqNoneIsIdentity : Prop :=
  (∀ fs f q g : F64,
    design .none fs f q g =
      { b0 := f64One, b1 := f64Zero, b2 := f64Zero, a1 := f64Zero, a2 := f64Zero }) ∧
  ∀ (d : BitDepth) (u : BqUnit) (ch : Nat) (v : Int) (free : Nat), d.inRange v → u.hist.wf →
    u.coeffs = { b0 := f64One, b1 := f64Zero, b2 := f64Zero, a1 := f64Zero, a2 := f64Zero } →
    (∀ k, k < 4 → f64IsFinite (u.hist.read (4 * ch + k)) = true) →
      (bqStep d.ext u ch v free).1 = v ∧
        (bqStep d.ext u ch v free).2.1.hist.read (4 * ch + 2) = toF64 v ∧
        (bqStep d.ext u ch v free).2.2 = free

/-! ### CMP (43_compressor.md) -/

/-- The six CMP setters: NaN is BAD_PARAM; any other operand is clamped and stored, the two times with
their smoothing coefficients; ENV and GR are kept (R630 to R635). -/
def Obligations.CmpSetters : Prop :=
  (∀ v : Word,
    decodeCommand ⟨0x20000000#32, v, []⟩ = .ok (.cmpSetThreshold v) ∧
      decodeCommand ⟨0x21000000#32, v, []⟩ = .ok (.cmpSetRatio v) ∧
      decodeCommand ⟨0x22000000#32, v, []⟩ = .ok (.cmpSetAttack v) ∧
      decodeCommand ⟨0x23000000#32, v, []⟩ = .ok (.cmpSetRelease v) ∧
      decodeCommand ⟨0x24000000#32, v, []⟩ = .ok (.cmpSetMakeup v) ∧
      decodeCommand ⟨0x25000000#32, v, []⟩ = .ok (.cmpSetKnee v)) ∧
  ∀ (s : State) (v : F64),
    (f64IsNaN v = true →
      exec (.cmpSetThreshold v) s = .next (s.rejected .badParam) ∧
        exec (.cmpSetRatio v) s = .next (s.rejected .badParam) ∧
        exec (.cmpSetAttack v) s = .next (s.rejected .badParam) ∧
        exec (.cmpSetRelease v) s = .next (s.rejected .badParam) ∧
        exec (.cmpSetMakeup v) s = .next (s.rejected .badParam) ∧
        exec (.cmpSetKnee v) s = .next (s.rejected .badParam)) ∧
      (f64IsNaN v = false →
        exec (.cmpSetThreshold v) s =
            .next
              (({ s with cmp := { s.cmp with threshold := clampF v f64NegHundred f64Zero } } :
                State).reconfigured 0x0201 (clampF v f64NegHundred f64Zero)) ∧
          exec (.cmpSetRatio v) s =
            .next
              (({ s with cmp := { s.cmp with ratio := clampF v f64One f64Inf } } :
                State).reconfigured 0x0202 (clampF v f64One f64Inf)) ∧
          exec (.cmpSetAttack v) s =
            .next
              (({ s with
                  cmp :=
                    { s.cmp with
                      attackMs := clampF v f64Zero f64Inf
                      attackC := coefOf s.geo.rateF (clampF v f64Zero f64Inf) } } :
                State).reconfigured 0x0203 (clampF v f64Zero f64Inf)) ∧
          exec (.cmpSetRelease v) s =
            .next
              (({ s with
                  cmp :=
                    { s.cmp with
                      releaseMs := clampF v f64Zero f64Inf
                      releaseC := coefOf s.geo.rateF (clampF v f64Zero f64Inf) } } :
                State).reconfigured 0x0204 (clampF v f64Zero f64Inf)) ∧
          exec (.cmpSetMakeup v) s =
            .next
              (({ s with cmp := { s.cmp with makeup := clampF v f64NegTwenty f64Twenty } } :
                State).reconfigured 0x0205 (clampF v f64NegTwenty f64Twenty)) ∧
          exec (.cmpSetKnee v) s =
            .next
              (({ s with cmp := { s.cmp with knee := clampF v f64Zero f64Twenty } } :
                State).reconfigured 0x0206 (clampF v f64Zero f64Twenty)))

/-- The smoothing coefficient is exp(−1/((fs · ms)/1000)), for every fs and ms (R601). The special values
of LIBM are those of R16. So at every rate up to 2^53 a time of 0 has the coefficient +0 and an infinite
time 1 (R601), and LOWPASS at f = 0 has A1 = −2, A2 = 1 and B = 0, whatever Q and gain are (R526, which the
spec derives from R512 and R514). -/
def Obligations.CoefficientsAndLibmValues : Prop :=
  (∀ fs ms : F64, coefOf fs ms = libmExp (fdiv f64NegOne (fdiv (fmul fs ms) f64Thousand))) ∧
  (libmExp (f64InfOf true) = f64Zero ∧ libmExp (fneg f64Zero) = f64One ∧ libmExp f64Zero = f64One ∧
    libmLog10 f64Zero = f64InfOf true ∧ libmLog10 f64One = f64Zero ∧ libmPow10 f64Zero = f64One ∧
    libmSin f64Zero = f64Zero ∧ libmCos f64Zero = f64One ∧ libmTan f64Zero = f64Zero) ∧
  ∀ rate : Nat, 1 ≤ rate → rate ≤ 2 ^ 53 →
    (∀ q g : F64, f64IsFinite q = true → flt f64Zero q = true →
      design .lowpass (toF64 (rate : Int)) f64Zero q g =
        { b0 := f64Zero, b1 := f64Zero, b2 := f64Zero, a1 := f64NegTwo, a2 := f64One }) ∧
      coefOf (toF64 (rate : Int)) f64Zero = f64Zero ∧ coefOf (toF64 (rate : Int)) f64Inf = f64One

/-- The gain computer, region by region, in either reading of the knee (R612). The core's reading is the
continuous one (D24; the parameter at its decided value, assumption log 10). The slope is 1 for an infinite
ratio (limiter); and ratio 1 gives no reduction in any region, for every level whose distance to the
threshold is finite or −∞. -/
def Obligations.GainComputerRegions : Prop :=
  Config.kneeFormula = .continuous ∧
  (∀ (formula : Config.KneeFormula) (threshold ratio knee level : F64),
    let d := fsub level threshold
    let hk := fdiv knee f64Two
    let x := fadd d hk
    let tgt := gainComputer formula threshold ratio knee level
    (fle (fabs d) hk = true → feq knee f64Zero = true → tgt = f64Zero) ∧
      (fle (fabs d) hk = true → feq knee f64Zero = false → formula = .continuous →
        tgt = fdiv (fmul (fsub f64One (fdiv f64One ratio)) (fmul x x)) (fmul f64Two knee)) ∧
      (fle (fabs d) hk = true → feq knee f64Zero = false → formula = .literal →
        tgt = fdiv (fmul (fsub (fdiv f64One ratio) f64One) (fmul x x)) (fmul f64Two knee)) ∧
      (fle (fabs d) hk = false → flt d f64Zero = true → tgt = f64Zero) ∧
      (fle (fabs d) hk = false → flt d f64Zero = false →
        tgt = fmul d (fsub f64One (fdiv f64One ratio)))) ∧
    fsub f64One (fdiv f64One f64Inf) = f64One ∧
    ∀ (formula : Config.KneeFormula) (threshold knee level : F64),
      fle f64Zero knee = true → fle knee f64Twenty = true →
      (f64IsFinite (fsub level threshold) = true ∨ fsub level threshold = f64InfOf true) →
        feq (gainComputer formula threshold f64One knee level) f64Zero = true

/-- One CMP step: the envelope takes the attack branch for a magnitude above it and the release branch
for one at or below it, the gain reduction is smoothed by the attack coefficient toward the gain
computer's target, the output is the quantised sample times 10^((−GR + M)/20), and nothing else of the
unit changes; a NaN is stored as some NaN. With both coefficients 0 the envelope is the magnitude and
GR the target, exactly (R610, R613). The level of an envelope of +0 is −∞, whose target is 0 (R611). -/
def Obligations.CompressorStep : Prop :=
  (∀ (ext : Nat) (u : CmpUnit) (v : Int) (free : Nat),
    let ax := fabs (fdiv (toF64 v) (toF64 (ext : Int)))
    let c := if flt u.env ax = true then u.attackC else u.releaseC
    let env := fadd (fmul c u.env) (fmul (fsub f64One c) ax)
    let r := cmpStep ext u v free
    let tgt := gainComputer Config.kneeFormula u.threshold u.ratio u.knee
      (fmul f64Twenty (libmLog10 r.2.1.env))
    let gr := fadd (fmul u.attackC u.gr) (fmul (fsub f64One u.attackC) tgt)
    (f64IsNaN env = false → r.2.1.env = env) ∧ (f64IsNaN env = true → f64IsNaN r.2.1.env = true) ∧
      (f64IsNaN gr = false → r.2.1.gr = gr) ∧ (f64IsNaN gr = true → f64IsNaN r.2.1.gr = true) ∧
      r.1 = quant ext (fmul (toF64 v) (libmPow10 (fdiv (fadd (fneg r.2.1.gr) u.makeup) f64Twenty))) ∧
      { r.2.1 with env := u.env, gr := u.gr } = u) ∧
  (∀ (d : BitDepth) (u : CmpUnit) (v : Int) (free : Nat), d.inRange v →
    u.attackC = f64Zero → u.releaseC = f64Zero → f64IsFinite u.env = true → f64IsFinite u.gr = true →
      let ax := fabs (fdiv (toF64 v) (toF64 (d.ext : Int)))
      let target := gainComputer Config.kneeFormula u.threshold u.ratio u.knee
        (fmul f64Twenty (libmLog10 ax))
      (cmpStep d.ext u v free).2.1.env = ax ∧
        (f64IsNaN target = false → feq (cmpStep d.ext u v free).2.1.gr target = true)) ∧
  fmul f64Twenty (libmLog10 f64Zero) = f64InfOf true ∧
  ∀ (formula : Config.KneeFormula) (threshold ratio knee : F64), f64IsFinite threshold = true →
    fle knee f64Twenty = true → gainComputer formula threshold ratio knee (f64InfOf true) = f64Zero

/-! ### RVB (44_reverb.md) -/

/-- The four RVB setters: NaN is BAD_PARAM; any other operand is clamped to [0, 1] and stored; LINE and
the cursor are kept (R730 to R733). -/
def Obligations.RvbSetters : Prop :=
  (∀ v : Word,
    decodeCommand ⟨0x30000000#32, v, []⟩ = .ok (.rvbSetRoom v) ∧
      decodeCommand ⟨0x31000000#32, v, []⟩ = .ok (.rvbSetDamping v) ∧
      decodeCommand ⟨0x32000000#32, v, []⟩ = .ok (.rvbSetWet v) ∧
      decodeCommand ⟨0x33000000#32, v, []⟩ = .ok (.rvbSetDry v)) ∧
  ∀ (s : State) (v : F64),
    (f64IsNaN v = true →
      exec (.rvbSetRoom v) s = .next (s.rejected .badParam) ∧
        exec (.rvbSetDamping v) s = .next (s.rejected .badParam) ∧
        exec (.rvbSetWet v) s = .next (s.rejected .badParam) ∧
        exec (.rvbSetDry v) s = .next (s.rejected .badParam)) ∧
      (f64IsNaN v = false →
        let x := clampF v f64Zero f64One
        exec (.rvbSetRoom v) s =
            .next (({ s with rvb := { s.rvb with room := x } } : State).reconfigured 0x0301 x) ∧
          exec (.rvbSetDamping v) s =
            .next (({ s with rvb := { s.rvb with damping := x } } : State).reconfigured 0x0302 x) ∧
          exec (.rvbSetWet v) s =
            .next (({ s with rvb := { s.rvb with wet := x } } : State).reconfigured 0x0303 x) ∧
          exec (.rvbSetDry v) s =
            .next (({ s with rvb := { s.rvb with dry := x } } : State).reconfigured 0x0304 x))

/-- One RVB step writes one cell of each line, the one at the cursor, with the input plus the scaled
feedback of what that cell held, leaves every other cell and every parameter, advances the cursor by one,
around the line, and answers the quantised mix of the dry input and the mean of the scaled reads, summed
in increasing i (R710); said for every number of lines n and feedback fb, of which the core's step has
N_LINES and FB. A NaN is stored as some NaN. -/
def Obligations.RvbTouchesOneCellPerLine : Prop :=
  (∀ (ext : Nat) (u : RvbUnit) (v : Int) (free : Nat),
    rvbStep ext u v free = rvbStepWith Config.nLines Config.feedback ext u v free) ∧
  ∀ (n : Nat) (fb : F64) (ext : Nat) (u : RvbUnit) (v : Int) (free : Nat), u.line.wf →
    u.cursor.toNat < u.lineLen.toNat →
      let len := u.lineLen.toNat
      let cur := u.cursor.toNat
      let k := fmul u.room (fsub f64One u.damping)
      let r := rvbStepWith n fb ext u v free
      (∀ i, i < n →
        let back := fadd (toF64 v) (fmul (fmul (u.line.read (i * len + cur)) k) fb)
        (f64IsNaN back = false → r.2.1.line.read (i * len + cur) = back) ∧
          (f64IsNaN back = true → f64IsNaN (r.2.1.line.read (i * len + cur)) = true)) ∧
        (∀ a, (∀ i, i < n → a ≠ i * len + cur) → r.2.1.line.read a = u.line.read a) ∧
        r.1 =
          quant ext
            (fadd (fmul (toF64 v) u.dry)
              (fmul
                (fdiv
                  ((List.range n).foldl (fun wet i => fadd wet (fmul (u.line.read (i * len + cur)) k))
                    f64Zero)
                  (toF64 (n : Int)))
                u.wet)) ∧
        r.2.1.line.wf ∧ r.2.1.cursor.toNat = (cur + 1) % len ∧
        { r.2.1 with line := u.line, cursor := u.cursor } = u

/-- Wet off: with WET = +0 the output is quant(DRY · s), whatever the lines hold, as long as the
averaged wet sum is finite (R712 says "any finite line contents"; a sum that overflows times 0 is NaN). -/
def Obligations.WetOffProperty : Prop :=
  ∀ (n : Nat) (fb : F64) (ext : Nat) (u : RvbUnit) (v : Int) (free : Nat), u.wet = f64Zero →
    f64IsFinite
        (fdiv
          (sweepLines fb (fmul u.room (fsub f64One u.damping)) (toF64 v) u.lineLen.toNat u.cursor.toNat
            n 0 ⟨u.line, f64Zero, free⟩).wet
          (toF64 (n : Int))) = true →
      (rvbStepWith n fb ext u v free).1 = quant ext (fmul (toF64 v) u.dry)

/-! ### VOL and the seeker's duration (45_gain.md, 46_seeker.md) -/

/-- SET_VOLUME and SET_DURATION: what is rejected, what is stored (R830, R930). -/
def Obligations.VolumeAndDurationSetters : Prop :=
  (∀ v : Word,
    decodeCommand ⟨0x40000000#32, v, []⟩ = .ok (.volSetVolume v) ∧
      decodeCommand ⟨0x50000000#32, v, []⟩ = .ok (.seekSetDuration v)) ∧
  ∀ (s : State) (v : F64),
    (f64IsNaN v = true ∨ flt v f64Zero = true →
      exec (.volSetVolume v) s = .next (s.rejected .badVolume)) ∧
    (f64IsNaN v = false → flt v f64Zero = false →
      let x :=
        if v = f64Inf then 0x7FEFFFFFFFFFFFFF#64 else if feq v f64Zero then f64Zero else v
      exec (.volSetVolume v) s =
        .next
          (({ s with vol := { s.vol with volume := x, gain := fdiv x f64Hundred } } :
            State).reconfigured 0x0401 x)) ∧
    (f64IsFinite v = false ∨ fle v f64Zero = true →
      exec (.seekSetDuration v) s = .next (s.rejected .badDuration)) ∧
    (f64IsFinite v = true → fle v f64Zero = false →
      exec (.seekSetDuration v) s =
        .next (({ s with seek := { s.seek with totalMs := v } } : State).reconfigured 0x0500 v))

/-- One VOL step at every gain: a gain equal to 1 passes the sample, any other multiplies and quantises
(R810); for a sample in range the multiplication by 1 would change nothing. At VOLUME 100 the unit is
the identity, at 0 every output is 0, at 200 the output is the clamp of twice the input (R811, which the
spec derives from R810). -/
def Obligations.VolumeStep : Prop :=
  (∀ (ext : Nat) (u : VolUnit) (v : Int),
    (feq u.gain f64One = true → volStep ext u v = v) ∧
      (feq u.gain f64One = false → volStep ext u v = quant ext (fmul (toF64 v) u.gain))) ∧
  (∀ (d : BitDepth) (v : Int), d.inRange v → quant d.ext (fmul (toF64 v) f64One) = v) ∧
  ∀ (d : BitDepth) (u : VolUnit) (v : Int), d.inRange v → u.gain = fdiv u.volume f64Hundred →
    (u.volume = f64Hundred → volStep d.ext u v = v) ∧
      (u.volume = f64Zero → volStep d.ext u v = 0) ∧
      (u.volume = 0x4069000000000000#64 →
        volStep d.ext u v = max (-(d.ext : Int)) (min ((d.ext : Int) - 1) (2 * v)))

/-! ### SEEK (46_seeker.md) -/

/-- SEEK: the whole next state in every case: in IDLE, for NaN, with no duration, and for a resolved
time that continues the stream where it is, behind it, or ahead of it (R931, R912). R912 takes the
product of the time and the rate to be finite, and so does this statement. -/
def Obligations.SeekEffect : Prop :=
  (∀ v : Word, decodeCommand ⟨0x51000000#32, v, []⟩ = .ok (.seekSeek v)) ∧
  ∀ (s : State) (v : F64),
    (s.phase = .idle → exec (.seekSeek v) s = .next (s.rejected .notActive)) ∧
    (s.phase = .active → f64IsNaN v = true → exec (.seekSeek v) s = .next (s.rejected .badParam)) ∧
    (s.phase = .active → f64IsNaN v = false → feq s.seek.totalMs f64Zero = true →
      exec (.seekSeek v) s = .next ({ s with res0 := f64Zero } : State).completed) ∧
    (s.phase = .active → f64IsNaN v = false → feq s.seek.totalMs f64Zero = false →
      let r := resolve s.seek.totalMs v
      let t := fdiv (fmul r s.geo.rateF) f64Thousand
      ∀ q : ℚ, f64Rat t = some q →
        exec (.seekSeek v) s = .next (s.soughtTo r ⌊q⌋.toNat).completed)

/-- A resolved time lies in [0, T]; the corner cases of R911, a time at or above T and a time from the
end among them. -/
def Obligations.ResolveStaysInRange : Prop :=
  ∀ total ms : F64, f64IsFinite total = true → flt f64Zero total = true → f64IsNaN ms = false →
    let r := resolve total ms
    fle f64Zero r = true ∧ fle r total = true ∧
      (ms = f64InfOf true → r = f64Zero) ∧
      (ms = f64InfOf false → r = total) ∧
      (fle total ms = true → r = total) ∧
      (ms = fneg f64Zero → r = f64Zero) ∧
      (ms = f64Zero → r = f64Zero) ∧
      (flt f64Zero ms = true → fle ms total = true → feq r ms = true) ∧
      (flt ms f64Zero = true → fle (fadd total ms) f64Zero = true → r = f64Zero) ∧
      (flt ms f64Zero = true → flt f64Zero (fadd total ms) = true →
        fle (fadd total ms) total = true → feq r (fadd total ms) = true)

/-- A target is a multiple of CHANNELS that fits 64 bits: frames times CHANNELS where that fits, else
the largest multiple that does (R912). Where the product of time and rate overflows, SEEK goes to that
largest multiple too, whatever count beyond 64 bits one takes for it: R912 takes t to be finite, and
that the saturation of D34 and D38 covers this case is the model's reading (assumption log 13). -/
def Obligations.SeekTargetArithmetic : Prop :=
  (∀ chans frames : Nat, 1 ≤ chans →
    chans ∣ seekTarget chans frames ∧ seekTarget chans frames ≤ 2 ^ 64 - 1 ∧
      (frames * chans ≤ 2 ^ 64 - 1 → seekTarget chans frames = frames * chans) ∧
      (2 ^ 64 - 1 < frames * chans →
        ∀ m, chans ∣ m → m ≤ 2 ^ 64 - 1 → m ≤ seekTarget chans frames)) ∧
    ∀ (s : State) (v : F64), s.phase = .active → f64IsNaN v = false →
      feq s.seek.totalMs f64Zero = false →
      let r := resolve s.seek.totalMs v
      f64IsFinite (fdiv (fmul r s.geo.rateF) f64Thousand) = false →
        ∀ frames, 2 ^ 64 - 1 < frames * s.geo.chans →
          exec (.seekSeek v) s = .next (s.soughtTo r frames).completed

/-- Seeking twice to the same time: the second seek changes nothing and posts nothing, whatever the time
and the duration are (R931). -/
def Obligations.SeekTwiceIsIdempotent : Prop :=
  ∀ (s t : State) (v : F64), exec (.seekSeek v) s = .next t → exec (.seekSeek v) t = .next t

/-! ### PUSH (41_stream.md) -/

/-- PUSH: rejected in IDLE; in ACTIVE the tracker takes the leftover and the payload, what it lets
through is processed and appended to OUT, byte for byte as long. Only running state of enabled units
changes, and of it only the history of channels that had a sample and the cells under the cursor as it
moves one place a sample. Where the tracker lets nothing through, no unit changes; an empty payload
changes nothing at all (R450, R460, R462, R920). -/
def Obligations.PushEffectAndFrame : Prop :=
  ∀ (s : State) (payload : List Byte),
    (s.phase = .idle → exec (.ctlPush payload) s = .next (s.rejected .notActive)) ∧
    (s.phase = .active → s.framingOk → exec (.ctlPush []) s = .next s.completed) ∧
    (s.phase = .active →
      let e := track s.geo s.seek (s.seek.left ++ payload)
      let r := processFrames e.1 { s with seek := e.2 }
      let n := e.1.length / s.geo.byteWidth
      let cur := s.rvb.cursor.toNat
      let len := s.rvb.lineLen.toNat
      exec (.ctlPush payload) s = .next ({ r.2 with out := s.out ++ r.1 } : State).completed ∧
        r.1.length = e.1.length ∧
        (e.1 = [] → r = ([], { s with seek := e.2 })) ∧
        r.2 =
          { s with
            seek := e.2
            bq := { s.bq with hist := r.2.bq.hist }
            cmp := { s.cmp with env := r.2.cmp.env, gr := r.2.cmp.gr }
            rvb := { s.rvb with line := r.2.rvb.line, cursor := r.2.rvb.cursor }
            free := r.2.free } ∧
        (s.cmp.en = false → r.2.cmp = s.cmp) ∧
        (∀ k, (s.bq.en = false ∨ ∀ j, j < n → k / 4 ≠ j % s.geo.chans) →
          r.2.bq.hist.read k = s.bq.hist.read k) ∧
        (s.rvb.en = false → r.2.rvb = s.rvb) ∧
        (cur < len →
          (s.rvb.en = true → r.2.rvb.cursor.toNat = (cur + n) % len) ∧
            ∀ a, (∀ i j, i < Config.nLines → j < n → a ≠ i * len + (cur + j) % len) →
              r.2.rvb.line.read a = s.rvb.line.read a))

/-- One frame pushed, one sample a channel: its samples go through CMP, RVB, BQ, VOL in this order, one
after the other, each enabled unit reading what the one before it wrote, the j-th sample with BQ's
history of channel j, and CMP and RVB the same for every channel (R460, R461, R452, R453, R465). -/
def Obligations.PushOneFrameThroughChain : Prop :=
  ∀ (s : State) (vs : List Int), s.phase = .active → vs.length = s.geo.chans → s.seek.left = [] →
    s.seek.pend = none → (∀ v ∈ vs, s.geo.bitdepth.inRange v) →
      let ext := s.geo.extremum
      let chain : State → Nat → Int → Int × State := fun s j v =>
        let a := if s.cmp.en then cmpStep ext s.cmp v s.free else (v, s.cmp, s.free)
        let b := if s.rvb.en then rvbStep ext s.rvb a.1 a.2.2 else (a.1, s.rvb, a.2.2)
        let c := if s.bq.en then bqStep ext s.bq j b.1 b.2.2 else (b.1, s.bq, b.2.2)
        let d := if s.vol.en then volStep ext s.vol c.1 else c.1
        (d, { s with cmp := a.2.1, rvb := b.2.1, bq := c.2.1, free := c.2.2 })
      let r := vs.zipIdx.foldl
        (fun (acc : List Byte × State) p =>
          (acc.1 ++ bytesOfSample s.geo (chain acc.2 p.2 p.1).1, (chain acc.2 p.2 p.1).2))
        ([], s)
      exec (.ctlPush (vs.flatMap (bytesOfSample s.geo))) s =
        .next
          ({ r.2 with
              out := s.out ++ r.1
              seek := { s.seek with pos := s.seek.pos + s.geo.channels, left := [] } } : State).completed

/-- With every unit disabled, OUT receives the whole frames unchanged, from a pending target on; the
partial frame is left over (R464, R920). -/
def Obligations.PassthroughWhenDisabled : Prop :=
  ∀ (s : State) (payload : List Byte), s.phase = .active → s.allDisabled →
    let buf := s.seek.left ++ payload
    let f := buf.length / s.geo.frameBytes
    let whole := buf.take (f * s.geo.frameBytes)
    let rest := buf.drop (f * s.geo.frameBytes)
    let stop := s.seek.pos.toNat + f * s.geo.chans
    (s.seek.pend = none →
      exec (.ctlPush payload) s =
        .next
          ({ s with
              out := s.out ++ whole
              seek := { s.seek with pos := BitVec.ofNat 64 stop, left := rest } } : State).completed) ∧
    (∀ p, s.seek.pend = some p → stop ≤ p.toNat →
      exec (.ctlPush payload) s =
        .next
          ({ s with seek := { s.seek with pos := BitVec.ofNat 64 stop, left := rest } } :
            State).completed) ∧
    (∀ p, s.seek.pend = some p → p.toNat < stop →
      exec (.ctlPush payload) s =
        .next
          ({ s with
              out := s.out ++ whole.drop ((p.toNat - s.seek.pos.toNat) * s.geo.byteWidth)
              seek := { s.seek with pos := BitVec.ofNat 64 stop, pend := none, left := rest } } :
            State).completed)

/-- Splitting a stream between two PUSHes, at any byte, gives the state one PUSH of both gives, and the
same OUT (R1111, R207). -/
def Obligations.PushSplitInvariance : Prop :=
  ∀ (s s1 s2 : State) (p q : List Byte), s.framingOk → s.phase = .active →
    s.geo.chans ∣ s.seek.pos.toNat →
    exec (.ctlPush p) s = .next s1 → exec (.ctlPush q) s1 = .next s2 →
      exec (.ctlPush (p ++ q)) s = .next s2

/-- The sample codec: what it reads is in range, and each of the four formats is two's complement in its
byte order, read and written (R452, R453). By inference from the two: what is read is written back to the
same bytes, and what is written is read back. -/
def Obligations.SampleCodecRoundTrip : Prop :=
  (∀ (g : Geometry) (bytes : List Byte), bytes.length = g.byteWidth →
    g.bitdepth.inRange (sampleOfBytes g bytes) ∧ bytesOfSample g (sampleOfBytes g bytes) = bytes) ∧
    (∀ (g : Geometry) (v : Int), g.bitdepth.inRange v → sampleOfBytes g (bytesOfSample g v) = v) ∧
    ∀ (g : Geometry) (b0 b1 b2 b3 : Byte),
      (g.bitdepth = .b16 → g.endian = .little →
        sampleOfBytes g [b0, b1] = (b1 ++ b0).toInt ∧
          bytesOfSample g (b1 ++ b0).toInt = [b0, b1]) ∧
        (g.bitdepth = .b16 → g.endian = .big →
          sampleOfBytes g [b0, b1] = (b0 ++ b1).toInt ∧
            bytesOfSample g (b0 ++ b1).toInt = [b0, b1]) ∧
        (g.bitdepth = .b32 → g.endian = .little →
          sampleOfBytes g [b0, b1, b2, b3] = (b3 ++ b2 ++ b1 ++ b0).toInt ∧
            bytesOfSample g (b3 ++ b2 ++ b1 ++ b0).toInt = [b0, b1, b2, b3]) ∧
        (g.bitdepth = .b32 → g.endian = .big →
          sampleOfBytes g [b0, b1, b2, b3] = (b0 ++ b1 ++ b2 ++ b3).toInt ∧
            bytesOfSample g (b0 ++ b1 ++ b2 ++ b3).toInt = [b0, b1, b2, b3])

/-- Every unit, and so the chain, answers a sample in [−EXT, EXT − 1], whatever its state holds
(R454). -/
def Obligations.SamplesStayInRange : Prop :=
  ∀ (ch : Nat) (v : Int) (s : State), s.geo.bitdepth.inRange v →
    s.geo.bitdepth.inRange (stageCmp v s).1 ∧ s.geo.bitdepth.inRange (stageRvb v s).1 ∧
      s.geo.bitdepth.inRange (stageBq ch v s).1 ∧ s.geo.bitdepth.inRange (stageVol v s).1 ∧
      s.geo.bitdepth.inRange (stageChain ch v s).1

/-- A disabled unit passes the sample and touches nothing, and a PUSH leaves every register and all
running state of it (R462). -/
def Obligations.DisabledUnitsFrozen : Prop :=
  (∀ (s : State) (v : Int) (ch : Nat),
    (s.cmp.en = false → stageCmp v s = (v, s)) ∧ (s.rvb.en = false → stageRvb v s = (v, s)) ∧
      (s.bq.en = false → stageBq ch v s = (v, s)) ∧ (s.vol.en = false → stageVol v s = (v, s))) ∧
  ∀ (s t : State) (payload : List Byte), exec (.ctlPush payload) s = .next t →
    (s.cmp.en = false → t.cmp = s.cmp) ∧ (s.rvb.en = false → t.rvb = s.rvb) ∧
      (s.bq.en = false → t.bq = s.bq) ∧ t.vol = s.vol

/-! ### Invariants that every step keeps -/

/-- Lifecycle, framing and the two cell stores: canonical, with cells of existing channels and lines
only (R122, R141, R142, R152, R153). -/
def Obligations.CellsInvariantKept : Prop :=
  ∀ s t : State, s.cellsOk → step s = .next t → t.cellsOk

/-- Every parameter register keeps a legal value (R113, R114, R120, R130, R140, R145, R150), and the rate
stays finite and above 0 as binary64 (R511). Beside the legal values, RATE 48000 and CHANNELS 2 are let
through, which reset gives whatever MAX_RATE and MAX_CHANNELS are (assumption log 8); for a rate above
2^53 the conversion is the model's choice (assumption log 12). -/
def Obligations.ParametersInvariantKept : Prop :=
  ∀ s t : State, s.paramsOk → step s = .next t → t.paramsOk

/-- The coefficients are the design of the held parameters and finite, the smoothing coefficients and
the gain are those of theirs; an error code comes with the sticky bit (R121, R131, R145, R1020). -/
def Obligations.DerivedInvariantKept : Prop :=
  (∀ s t : State, s.derivedOk → step s = .next t → t.derivedOk) ∧
    ∀ s t : State, s.stickyOk → step s = .next t → t.stickyOk

/-- SK_POS stays a multiple of CHANNELS, as long as the bytes at hand cannot take it past 2^64 (R151,
R923). -/
def Obligations.PositionInvariantKept : Prop :=
  ∀ s t : State, s.framingOk → s.geo.chans ∣ s.seek.pos.toNat →
    s.seek.pos.toNat + s.seek.left.length + s.port.length < 2 ^ 64 →
    step s = .next t → t.framingOk ∧ t.geo.chans ∣ t.seek.pos.toNat

/-! ### The host (60_exceptions.md R1040) -/

/-- The host's moves do not disturb the core: bytes sent behind a whole command, and bytes drained from
OUT before it, change neither the command's effect nor what is drained later. The moves and the port are
the model's choice (assumption log 1, 2), and for CTL.RESET the first clause rests on the model's choice
that RESET keeps the bytes on the port (assumption log 6). -/
def Obligations.HostMovesCommute : Prop :=
  (∀ (s t : State) (bytes : List Byte), step s = .next t →
    step (s.hostSend bytes) = .next (t.hostSend bytes)) ∧
    ∀ (s t : State) (n : Nat), n ≤ s.out.length → step s = .next t →
      step (s.hostDrain n) = .next (t.hostDrain n)

/-! ### Numbers (00_scope.md R14, R17) -/

/-- The numbers of R14. Addition, subtraction, multiplication, division and square root of finite numbers
are the exact result rounded once to nearest, ties to even; an integer up to 2^53 converts exactly. The
sign of a result, zeros included, is that of IEEE 754: products and quotients take the signs' exclusive
or, an exact zero sum is +0 but for −0 + −0, the root of a zero is that zero. So are infinities and NaN in
every operator. Every comparison with NaN is false, −0 equals +0, finite numbers compare as what they are
worth, each infinity equals itself alone, and +∞ is above and −∞ below all others; the absolute value
clears the sign. -/
def Obligations.FloatingPointPrimitives : Prop :=
  (∀ (x y : F64) (a b : ℚ), f64Rat x = some a → f64Rat y = some b →
    NearestEven (((a + b : ℚ) : ℝ)) (fadd x y) ∧ NearestEven (((a - b : ℚ) : ℝ)) (fsub x y) ∧
      NearestEven (((a * b : ℚ) : ℝ)) (fmul x y) ∧
      (b ≠ 0 → NearestEven (((a / b : ℚ) : ℝ)) (fdiv x y)) ∧
      (0 ≤ a → NearestEven (Real.sqrt (a : ℝ)) (fsqrt x)) ∧
      f64Sign (fmul x y) = (f64Sign x ^^ f64Sign y) ∧
      (b ≠ 0 → f64Sign (fdiv x y) = (f64Sign x ^^ f64Sign y)) ∧
      (a + b = 0 → fadd x y = if f64Sign x && f64Sign y then fneg f64Zero else f64Zero) ∧
      (a - b = 0 → fsub x y = if f64Sign x && !f64Sign y then fneg f64Zero else f64Zero) ∧
      (a = 0 → fsqrt x = x) ∧
      (flt x y = true ↔ a < b) ∧ (fle x y = true ↔ a ≤ b) ∧ (feq x y = true ↔ a = b)) ∧
    (∀ i : Int, i.natAbs ≤ 2 ^ 53 → f64Rat (toF64 i) = some (i : ℚ)) ∧
    (∀ x y : F64, f64IsNaN x = true ∨ f64IsNaN y = true →
      flt x y = false ∧ fle x y = false ∧ feq x y = false ∧
        f64IsNaN (fadd x y) = true ∧ f64IsNaN (fsub x y) = true ∧
        f64IsNaN (fmul x y) = true ∧ f64IsNaN (fdiv x y) = true) ∧
    (∀ x : F64, f64IsNaN x = true ∨ flt x f64Zero = true → f64IsNaN (fsqrt x) = true) ∧
    fsqrt (f64InfOf false) = f64InfOf false ∧
    (∀ (x : F64) (s : Bool), f64IsFinite x = true →
      flt x (f64InfOf s) = !s ∧ fle x (f64InfOf s) = !s ∧ feq x (f64InfOf s) = false ∧
        flt (f64InfOf s) x = s ∧ fle (f64InfOf s) x = s ∧ feq (f64InfOf s) x = false ∧
        fadd x (f64InfOf s) = f64InfOf s ∧ fsub x (f64InfOf s) = f64InfOf (!s) ∧
        fsub (f64InfOf s) x = f64InfOf s ∧
        fdiv x (f64InfOf s) = (if f64Sign x = s then f64Zero else fneg f64Zero) ∧
        fdiv (f64InfOf s) x = f64InfOf (f64Sign x ^^ s) ∧
        (feq x f64Zero = false →
          fmul x (f64InfOf s) = f64InfOf (f64Sign x ^^ s) ∧
            fdiv x f64Zero = f64InfOf (f64Sign x) ∧ fdiv x (fneg f64Zero) = f64InfOf (!f64Sign x)) ∧
        (feq x f64Zero = true →
          f64IsNaN (fmul x (f64InfOf s)) = true ∧
            f64IsNaN (fdiv x f64Zero) = true ∧ f64IsNaN (fdiv x (fneg f64Zero)) = true)) ∧
    (∀ s t : Bool,
      flt (f64InfOf s) (f64InfOf t) = (s && !t) ∧ fle (f64InfOf s) (f64InfOf t) = (s || !t) ∧
        feq (f64InfOf s) (f64InfOf t) = decide (s = t) ∧
        fadd (f64InfOf s) (f64InfOf s) = f64InfOf s ∧
        f64IsNaN (fadd (f64InfOf s) (f64InfOf (!s))) = true ∧
        fsub (f64InfOf s) (f64InfOf (!s)) = f64InfOf s ∧
        f64IsNaN (fsub (f64InfOf s) (f64InfOf s)) = true ∧
        fmul (f64InfOf s) (f64InfOf t) = f64InfOf (s ^^ t) ∧
        f64IsNaN (fdiv (f64InfOf s) (f64InfOf t)) = true) ∧
    (∀ x y : F64, fadd x y = fadd y x ∧ fmul x y = fmul y x) ∧
    ∀ x : F64, f64Sign (fabs x) = false ∧ (fabs x).toNat % 2 ^ 63 = x.toNat % 2 ^ 63 ∧
      f64Sign (fneg x) = !f64Sign x ∧ (fneg x).toNat % 2 ^ 63 = x.toNat % 2 ^ 63

/-- `quant`: NaN gives 0; a number is clamped to [−EXT, EXT − 1] and truncated toward zero (R17, which the
spec derives from R15). -/
def Obligations.QuantRule : Prop :=
  ∀ (d : BitDepth) (v : F64),
    (f64IsNaN v = true → quant d.ext v = 0) ∧
      (v = f64InfOf false → quant d.ext v = (d.ext : Int) - 1) ∧
      (v = f64InfOf true → quant d.ext v = -(d.ext : Int)) ∧
      ∀ q : ℚ, f64Rat v = some q →
        quant d.ext v =
          if q ≤ -(d.ext : ℚ) then -(d.ext : Int)
          else if (d.ext : ℚ) - 1 ≤ q then (d.ext : Int) - 1
          else if 0 ≤ q then ⌊q⌋ else ⌈q⌉
end

