-- ==== Sys2Proof/Laws/Numbers.lean ====
section
/-!
SUPPORT. What a pattern is worth as a rational, from its unpacked form.
-/

namespace Sys2Proof.Machine

theorem f64Quanta_eq : f64Quanta = 2 ^ 1074 := by
  unfold f64Quanta
  rfl

theorem f64Quanta_pos : 0 < f64Quanta := by
  rw [f64Quanta_eq]
  exact Nat.two_pow_pos _

theorem f64Quanta_ne_zero : (f64Quanta : ℚ) ≠ 0 := Nat.cast_ne_zero.2 (Nat.ne_of_gt f64Quanta_pos)

/-- The worth of a finite pattern. -/
theorem f64Rat_of_fin {x : F64} {s : Bool} {m : Nat} (h : f64Unpack x = .fin s m) :
    f64Rat x = some ((signedMag s m : ℚ) / (f64Quanta : ℚ)) := by
  unfold f64Rat
  rw [h]

/-- A pattern worth something is finite. -/
theorem f64Rat_eq_some {x : F64} {q : ℚ} (h : f64Rat x = some q) :
    ∃ s m, f64Unpack x = .fin s m ∧ q = (signedMag s m : ℚ) / (f64Quanta : ℚ) := by
  unfold f64Rat at h
  cases hu : f64Unpack x with
  | nan => rw [hu] at h; cases h
  | inf s => rw [hu] at h; cases h
  | fin s m =>
    rw [hu] at h
    exact ⟨s, m, rfl, (Option.some.inj h).symm⟩

/-- A pattern of a whole number of units is worth that number. -/
theorem f64Rat_of_units {x : F64} {s : Bool} {n : Nat} (h : f64Unpack x = .fin s (n * f64Quanta)) :
    f64Rat x = some (signedMag s n : ℚ) := by
  rw [f64Rat_of_fin h, signedMag_mul, Int.cast_mul, Int.cast_natCast, mul_div_cancel_right₀ _ f64Quanta_ne_zero]

end Sys2Proof.Machine
end

