-- ==== Sys2Proof/Tests/Slice0.lean ====
section
/-!
SUPPORT. Tests: the well-formedness check, the decoding of words written out from R310 to R315, one-step
tests whose expected values stand in the rules' examples and in 95_test_vectors.md, and for every
obligation with hypotheses a state and operands that meet them.
-/

namespace Sys2Proof.Tests

open Machine

/-! ### The well-formedness check (R450: a payload is shorter than 2^32 bytes) -/

theorem test_wf_refuses_long_push : (Instr.ctlPush (List.replicate (2 ^ 32) 0#8)).wf = false := by
  simp only [Instr.wf, List.length_replicate]
  decide

theorem witness_DecodeEncodeRoundTrip : (Instr.ctlPush [1#8, 2#8, 3#8]).wf = true := by decide

/-! ### Decoding, one word written out for every command -/

theorem test_decode_ctl_nop : decodeCommand ⟨0x00000000#32, 0#64, []⟩ = .ok .ctlNop := by
  decide

theorem test_decode_ctl_create : decodeCommand ⟨0x01000000#32, 0#64, []⟩ = .ok .ctlCreate := by
  decide

theorem test_decode_ctl_destroy : decodeCommand ⟨0x02000000#32, 0#64, []⟩ = .ok .ctlDestroy := by
  decide

theorem test_decode_ctl_end : decodeCommand ⟨0x04000000#32, 0#64, []⟩ = .ok .ctlEnd := by
  decide

theorem test_decode_ctl_stream_error_close : decodeCommand ⟨0x05000000#32, 0#64, []⟩ = .ok (.ctlStreamError .prematureClose) := by
  decide

theorem test_decode_ctl_stream_error_io : decodeCommand ⟨0x05010000#32, 0#64, []⟩ = .ok (.ctlStreamError .ioFailure) := by
  decide

theorem test_decode_ctl_read_reg : decodeCommand ⟨0x06000201#32, 0#64, []⟩ = .ok (.ctlReadReg 0x0201#16) := by
  decide

theorem test_decode_ctl_pop_event : decodeCommand ⟨0x07000000#32, 0#64, []⟩ = .ok .ctlPopEvent := by
  decide

theorem test_decode_ctl_ack_err : decodeCommand ⟨0x08000000#32, 0#64, []⟩ = .ok .ctlAckErr := by
  decide

theorem test_decode_ctl_set_bitdepth : decodeCommand ⟨0x09000000#32, 32#64, []⟩ = .ok (.ctlSetBitdepth 32#64) := by
  decide

theorem test_decode_ctl_set_endian : decodeCommand ⟨0x0A000000#32, 1#64, []⟩ = .ok (.ctlSetEndian 1#64) := by
  decide

theorem test_decode_ctl_set_rate : decodeCommand ⟨0x0B000000#32, 44100#64, []⟩ = .ok (.ctlSetRate 44100#64) := by
  decide

theorem test_decode_ctl_set_channels : decodeCommand ⟨0x0C000000#32, 1#64, []⟩ = .ok (.ctlSetChannels 1#64) := by
  decide

theorem test_decode_ctl_reset : decodeCommand ⟨0x0D000000#32, 0#64, []⟩ = .ok .ctlReset := by
  decide

theorem test_decode_bq_set_type : decodeCommand ⟨0x10000000#32, 1#64, []⟩ = .ok (.bqSetType 1#64) := by
  decide

theorem test_decode_bq_set_freq : decodeCommand ⟨0x11000000#32, 0x407F400000000000#64, []⟩ = .ok (.bqSetFreq 0x407F400000000000#64) := by
  decide

theorem test_decode_bq_set_q : decodeCommand ⟨0x12000000#32, 0x3FE6A09E667F3BCD#64, []⟩ = .ok (.bqSetQ 0x3FE6A09E667F3BCD#64) := by
  decide

theorem test_decode_bq_set_gain : decodeCommand ⟨0x13000000#32, 0xC024000000000000#64, []⟩ = .ok (.bqSetGain 0xC024000000000000#64) := by
  decide

theorem test_decode_bq_enable : decodeCommand ⟨0x14000000#32, 0#64, []⟩ = .ok .bqEnable := by
  decide

theorem test_decode_bq_disable : decodeCommand ⟨0x15000000#32, 0#64, []⟩ = .ok .bqDisable := by
  decide

theorem test_decode_cmp_set_threshold : decodeCommand ⟨0x20000000#32, 0xC024000000000000#64, []⟩ = .ok (.cmpSetThreshold 0xC024000000000000#64) := by
  decide

theorem test_decode_cmp_set_ratio : decodeCommand ⟨0x21000000#32, 0x4010000000000000#64, []⟩ = .ok (.cmpSetRatio 0x4010000000000000#64) := by
  decide

theorem test_decode_cmp_set_attack : decodeCommand ⟨0x22000000#32, 0x3FF0000000000000#64, []⟩ = .ok (.cmpSetAttack 0x3FF0000000000000#64) := by
  decide

theorem test_decode_cmp_set_release : decodeCommand ⟨0x23000000#32, 0x7FF0000000000000#64, []⟩ = .ok (.cmpSetRelease 0x7FF0000000000000#64) := by
  decide

theorem test_decode_cmp_set_makeup : decodeCommand ⟨0x24000000#32, 0x4034000000000000#64, []⟩ = .ok (.cmpSetMakeup 0x4034000000000000#64) := by
  decide

theorem test_decode_cmp_set_knee : decodeCommand ⟨0x25000000#32, 0x8000000000000000#64, []⟩ = .ok (.cmpSetKnee 0x8000000000000000#64) := by
  decide

theorem test_decode_cmp_enable : decodeCommand ⟨0x26000000#32, 0#64, []⟩ = .ok .cmpEnable := by
  decide

theorem test_decode_cmp_disable : decodeCommand ⟨0x27000000#32, 0#64, []⟩ = .ok .cmpDisable := by
  decide

theorem test_decode_rvb_set_room : decodeCommand ⟨0x30000000#32, 0x3FE0000000000000#64, []⟩ = .ok (.rvbSetRoom 0x3FE0000000000000#64) := by
  decide

theorem test_decode_rvb_set_damping : decodeCommand ⟨0x31000000#32, 0x3FD0000000000000#64, []⟩ = .ok (.rvbSetDamping 0x3FD0000000000000#64) := by
  decide

theorem test_decode_rvb_set_wet : decodeCommand ⟨0x32000000#32, 0x3FF0000000000000#64, []⟩ = .ok (.rvbSetWet 0x3FF0000000000000#64) := by
  decide

theorem test_decode_rvb_set_dry : decodeCommand ⟨0x33000000#32, 0x7FF8000000000000#64, []⟩ = .ok (.rvbSetDry 0x7FF8000000000000#64) := by
  decide

theorem test_decode_rvb_enable : decodeCommand ⟨0x34000000#32, 0#64, []⟩ = .ok .rvbEnable := by
  decide

theorem test_decode_rvb_disable : decodeCommand ⟨0x35000000#32, 0#64, []⟩ = .ok .rvbDisable := by
  decide

theorem test_decode_vol_set_volume : decodeCommand ⟨0x40000000#32, 0x4049000000000000#64, []⟩ = .ok (.volSetVolume 0x4049000000000000#64) := by
  decide

theorem test_decode_vol_enable : decodeCommand ⟨0x41000000#32, 0#64, []⟩ = .ok .volEnable := by
  decide

theorem test_decode_vol_disable : decodeCommand ⟨0x42000000#32, 0#64, []⟩ = .ok .volDisable := by
  decide

theorem test_decode_seek_set_duration : decodeCommand ⟨0x50000000#32, 0x408F400000000000#64, []⟩ = .ok (.seekSetDuration 0x408F400000000000#64) := by
  decide

theorem test_decode_seek_seek : decodeCommand ⟨0x51000000#32, 0xC07F400000000000#64, []⟩ = .ok (.seekSeek 0xC07F400000000000#64) := by
  decide

/-- A PUSH of three bytes as it stands on the port: CW and OPND least significant byte first, the
payload, one pad byte that is ignored (R300, R304). -/
theorem test_decode_ctl_push :
    decode [0#8, 0#8, 0#8, 3#8, 3#8, 0#8, 0#8, 0#8, 0#8, 0#8, 0#8, 0#8, 1#8, 2#8, 3#8, 0xEE#8, 0x77#8] =
      .ok (.ctlPush [1#8, 2#8, 3#8], [0x77#8]) := by decide

/-- `vol.set_volume 50.0`, byte by byte. -/
theorem test_decode_bytes :
    decode [0#8, 0#8, 0#8, 0x40#8, 0#8, 0#8, 0#8, 0#8, 0#8, 0#8, 0x49#8, 0x40#8] =
      .ok (.volSetVolume 0x4049000000000000#64, []) := by decide

/-! ### The decoder's refusals, each at the first value past the legal ones (R320, R322) -/

theorem test_reserved_unit : decodeCommand ⟨0x60000000#32, 0#64, []⟩ = .error .reservedUnit := by decide

theorem test_reserved_op : decodeCommand ⟨0x0E000000#32, 0#64, []⟩ = .error .reservedOp := by decide

theorem test_reserved_op_seek : decodeCommand ⟨0x52000000#32, 0#64, []⟩ = .error .reservedOp := by decide

theorem test_bad_sub : decodeCommand ⟨0x05020001#32, 1#64, []⟩ = .error .badSub := by decide

theorem test_bad_imm : decodeCommand ⟨0x14000001#32, 1#64, []⟩ = .error .badImm := by decide

theorem test_bad_operand : decodeCommand ⟨0x06000000#32, 1#64, []⟩ = .error .badOperand := by decide

theorem test_bad_push_length :
    decodeCommand ⟨0x03000000#32, 0x0000000100000000#64, []⟩ = .error .badOperand := by decide

/-! ### One step of every command -/

/-- Whether a result is a next state with a property. -/
def nextIs (r : Result) (p : State → Bool) : Bool :=
  match r with
  | .next t => p t
  | .fault _ => false
  | .refused _ => false

/-- A stereo stream just created in the reset geometry. -/
def stereo : State :=
  { State.reset with phase := .active, rvb := { State.reset.rvb with lineLen := 2400 } }

/-- A mono stream at RATE 40, so with delay lines of 2 cells. -/
def mono : State :=
  { State.reset with
    phase := .active
    geo := { State.reset.geo with channels := 1, rate := 40 }
    rvb := { State.reset.rvb with lineLen := 2 } }

theorem test_nop : exec .ctlNop { stereo with lastErr := .badQ } = .next stereo := rfl

/-- R401's example: RVB_LINE_LEN = 2400 at RATE 48000. -/
theorem test_create :
    nextIs (exec .ctlCreate State.reset) (fun t => t.phase = .active && t.rvb.lineLen = 2400) = true := by
  decide +kernel

theorem test_destroy_keeps_out :
    nextIs (exec .ctlDestroy { stereo with out := [7#8], seek := { stereo.seek with pos := 2 } })
      (fun t => t.phase = .idle && t.out = [7#8] && t.seek.pos = 0) = true := by decide +kernel

/-- R450's example. -/
theorem test_push :
    nextIs (exec (.ctlPush [1#8, 0#8, 0xFF#8, 0xFF#8, 2#8, 0#8, 3#8, 0#8]) stereo)
      (fun t => t.out = [1#8, 0#8, 0xFF#8, 0xFF#8, 2#8, 0#8, 3#8, 0#8] && t.seek.pos = 4) = true := by
  decide +kernel

/-- R920: a pending target inside the chunk drops the frames before it. -/
theorem test_push_skips :
    nextIs
      (exec (.ctlPush [1#8, 0#8, 2#8, 0#8, 3#8, 0#8, 4#8, 0#8])
        { stereo with seek := { stereo.seek with pend := some 2 } })
      (fun t => t.out = [3#8, 0#8, 4#8, 0#8] && t.seek.pend = none && t.seek.pos = 4) = true := by
  decide +kernel

/-- R403's example: the leftover is dropped. -/
theorem test_end :
    nextIs (exec .ctlEnd { stereo with seek := { stereo.seek with left := [1#8, 2#8, 3#8] } })
      (fun t => t.phase = .idle && t.out = [] && t.seek.left = []) = true := by decide +kernel

/-- R404's example. -/
theorem test_stream_error :
    nextIs (exec (.ctlStreamError .ioFailure) stereo)
      (fun t => t.phase = .idle && t.evq = [.error 1] && t.lastErr = .ok) = true := by decide +kernel

theorem test_stream_error_close :
    nextIs (exec (.ctlStreamError .prematureClose) stereo)
      (fun t => t.phase = .idle && t.evq = []) = true := by decide +kernel

/-- R430's example. -/
theorem test_read_reg :
    nextIs
      (exec (.ctlReadReg 0x0201)
        { State.reset with cmp := { State.reset.cmp with threshold := 0xC024000000000000#64 } })
      (fun t => t.res0 = 0xC024000000000000#64) = true := by decide +kernel

/-- R430: history of channel 2 of a stereo geometry. -/
theorem test_read_reg_bad :
    nextIs (exec (.ctlReadReg 0x4008) State.reset) (fun t => t.lastErr = .badRegister) = true := by
  decide +kernel

/-- R431's example. -/
theorem test_pop_event :
    nextIs (exec .ctlPopEvent { State.reset with evq := [.reconfig 0x0401 0x4049000000000000#64] })
      (fun t => t.res0 = 1 && t.res1 = 0x0401 && t.res2 = 0x4049000000000000#64 && t.evq = []) =
        true := by decide +kernel

theorem test_ack_err :
    nextIs (exec .ctlAckErr { State.reset with errSticky := true, lastErr := .badQ })
      (fun t => !t.errSticky && t.status = 0) = true := by decide +kernel

/-- R420's example. -/
theorem test_set_bitdepth :
    nextIs (exec (.ctlSetBitdepth 24) State.reset)
      (fun t => t.lastErr = .unsupportedFormat && t.geo.bitdepth = .b16) = true := by decide +kernel

/-- R1003's example. -/
theorem test_set_bitdepth_locked :
    nextIs (exec (.ctlSetBitdepth 24) stereo) (fun t => t.lastErr = .geometryLocked) = true := by
  decide +kernel

/-- R421's example. -/
theorem test_set_endian :
    nextIs (exec (.ctlSetEndian 1) State.reset)
      (fun t => t.geo.endian = .big && t.evq = [.reconfig 0x0011 1]) = true := by decide +kernel

theorem test_set_rate_zero :
    nextIs (exec (.ctlSetRate 0) State.reset) (fun t => t.lastErr = .badRate) = true := by
  decide +kernel

/-- R423's example. -/
theorem test_set_channels :
    nextIs (exec (.ctlSetChannels 0) State.reset) (fun t => t.lastErr = .badChannels) = true := by
  decide +kernel

/-- R405's example. -/
theorem test_reset :
    nextIs
      (exec .ctlReset
        { stereo with bq := { State.reset.bq with freq := 0x407F400000000000#64 }, errSticky := true })
      (fun t => t.bq.freq = f64Thousand && t.phase = .idle && !t.errSticky) = true := by decide +kernel

/-- R530's example. -/
theorem test_set_type :
    nextIs (exec (.bqSetType 11) State.reset)
      (fun t => t.lastErr = .badFilterType && t.bq.type = .none) = true := by decide +kernel

/-- R531's example: 24000.5 Hz at RATE 48000. -/
theorem test_set_freq :
    nextIs (exec (.bqSetFreq 0x40D7702000000000#64) State.reset)
      (fun t => t.lastErr = .badFrequency) = true := by decide +kernel

/-- R531: −0 is stored as +0. -/
theorem test_set_freq_zero :
    nextIs (exec (.bqSetFreq 0x8000000000000000#64) State.reset)
      (fun t => t.bq.freq = 0 && t.evq = [.reconfig 0x0102 0]) = true := by decide +kernel

/-- R532's example. -/
theorem test_set_q :
    nextIs (exec (.bqSetQ 0) State.reset) (fun t => t.lastErr = .badQ) = true := by decide +kernel

theorem test_set_gain :
    nextIs (exec (.bqSetGain 0x7FF0000000000000#64) State.reset)
      (fun t => t.lastErr = .badParam) = true := by decide +kernel

theorem test_bq_enable :
    nextIs (exec .bqEnable State.reset) (fun t => t.bq.en && t.evq = [.reconfig 0x0100 1]) = true := by
  decide +kernel

theorem test_bq_disable :
    nextIs (exec .bqDisable { State.reset with bq := { State.reset.bq with en := true } })
      (fun t => !t.bq.en && t.irq) = true := by decide +kernel

/-- R520 with B0 = 0.5: 3 gives y = 1.5, kept in Y1 and truncated to 1. -/
theorem test_bq_step :
    (bqStep 32768
        { State.reset.bq with coeffs := { b0 := f64Half, b1 := 0, b2 := 0, a1 := 0, a2 := 0 } } 1 3 0).1 = 1 ∧
      (bqStep 32768
        { State.reset.bq with coeffs := { b0 := f64Half, b1 := 0, b2 := 0, a1 := 0, a2 := 0 } } 1 3
          0).2.1.hist.read 6 = 0x3FF8000000000000#64 := by decide +kernel

/-- R630's examples. -/
theorem test_set_threshold :
    nextIs (exec (.cmpSetThreshold 0x4014000000000000#64) State.reset)
        (fun t => t.cmp.threshold = 0) = true ∧
      nextIs (exec (.cmpSetThreshold 0xC06F400000000000#64) State.reset)
        (fun t => t.cmp.threshold = f64NegHundred) = true := by decide +kernel

/-- R631's example. -/
theorem test_set_ratio :
    nextIs (exec (.cmpSetRatio f64Half) State.reset) (fun t => t.cmp.ratio = f64One) = true := by
  decide +kernel

/-- R632: a negative time stores +0, with coefficient 0. -/
theorem test_set_attack :
    nextIs (exec (.cmpSetAttack f64NegOne) State.reset)
      (fun t => t.cmp.attackMs = 0 && t.cmp.attackC = 0) = true := by decide +kernel

/-- R633: +∞ stores +∞, with coefficient 1. -/
theorem test_set_release :
    nextIs (exec (.cmpSetRelease f64Inf) State.reset)
      (fun t => t.cmp.releaseMs = f64Inf && t.cmp.releaseC = f64One) = true := by decide +kernel

/-- R634's example: 30 dB. -/
theorem test_set_makeup :
    nextIs (exec (.cmpSetMakeup 0x403E000000000000#64) State.reset)
      (fun t => t.cmp.makeup = f64Twenty) = true := by decide +kernel

/-- R635's example. -/
theorem test_set_knee :
    nextIs (exec (.cmpSetKnee f64NegOne) State.reset) (fun t => t.cmp.knee = 0) = true := by
  decide +kernel

theorem test_cmp_enable :
    nextIs (exec .cmpEnable State.reset) (fun t => t.cmp.en && t.evq = [.reconfig 0x0200 1]) = true := by
  decide +kernel

theorem test_cmp_disable :
    nextIs (exec .cmpDisable { State.reset with cmp := { State.reset.cmp with en := true } })
      (fun t => !t.cmp.en) = true := by decide +kernel

/-- R610 at full scale (log10(1) = +0): T −20, R 4, hard knee: ENV 1, GR 20 · (1 − 1/4) = 15. -/
theorem test_cmp_step :
    (cmpStep 32768
        { State.reset.cmp with threshold := f64NegTwenty, ratio := 0x4010000000000000#64 } (-32768) 0).2.1.env =
          f64One ∧
      (cmpStep 32768
        { State.reset.cmp with threshold := f64NegTwenty, ratio := 0x4010000000000000#64 } (-32768) 0).2.1.gr =
          0x402E000000000000#64 := by decide +kernel

/-- R730's example. -/
theorem test_set_room :
    nextIs (exec (.rvbSetRoom 0x3FF8000000000000#64) State.reset) (fun t => t.rvb.room = f64One) =
      true := by decide +kernel

/-- R731's example. -/
theorem test_set_damping :
    nextIs (exec (.rvbSetDamping 0x3FD0000000000000#64) State.reset)
      (fun t => t.rvb.damping = 0x3FD0000000000000#64) = true := by decide +kernel

/-- R732's example. -/
theorem test_set_wet :
    nextIs (exec (.rvbSetWet 0xC008000000000000#64) State.reset) (fun t => t.rvb.wet = 0) = true := by
  decide +kernel

/-- R733's example. -/
theorem test_set_dry :
    nextIs (exec (.rvbSetDry f64Inf) State.reset) (fun t => t.rvb.dry = f64One) = true := by
  decide +kernel

theorem test_rvb_enable :
    nextIs (exec .rvbEnable State.reset) (fun t => t.rvb.en && t.evq = [.reconfig 0x0300 1]) = true := by
  decide +kernel

theorem test_rvb_disable :
    nextIs (exec .rvbDisable { State.reset with rvb := { State.reset.rvb with en := true } })
      (fun t => !t.rvb.en) = true := by decide +kernel

/-- The third sample of R710's example: four lines of length 2 that hold (100.0, 0.0), input 0. -/
def echoing : RvbUnit :=
  { mono.rvb with
    room := f64One
    wet := f64One
    line := [(0, f64Hundred), (2, f64Hundred), (4, f64Hundred), (6, f64Hundred)] }

theorem test_rvb_step :
    (rvbStepWith 4 f64Half 32768 echoing 0 0).1 = 100 ∧
      (rvbStepWith 4 f64Half 32768 echoing 0 0).2.1.cursor = 1 ∧
      (rvbStepWith 4 f64Half 32768 echoing 0 0).2.1.line.read 6 = 0x4049000000000000#64 := by
  decide +kernel

/-- R830's examples. -/
theorem test_set_volume :
    nextIs (exec (.volSetVolume 0x4049000000000000#64) State.reset)
        (fun t => t.vol.gain = f64Half && t.evq = [.reconfig 0x0401 0x4049000000000000#64]) = true ∧
      nextIs (exec (.volSetVolume f64NegOne) State.reset)
        (fun t => t.lastErr = .badVolume && t.vol.volume = f64Hundred) = true := by decide +kernel

theorem test_vol_enable :
    nextIs (exec .volEnable State.reset) (fun t => t.vol.en && t.evq = [.reconfig 0x0400 1]) = true := by
  decide +kernel

theorem test_vol_disable :
    nextIs (exec .volDisable { State.reset with vol := { State.reset.vol with en := true } })
      (fun t => !t.vol.en) = true := by decide +kernel

/-- R810's examples: 200 % of 20000, 50 % of −3. -/
theorem test_vol_step :
    volStep 32768 { State.reset.vol with gain := f64Two } 20000 = 32767 ∧
      volStep 32768 { State.reset.vol with gain := f64Half } (-3) = -1 := by decide +kernel

/-- R930's examples. -/
theorem test_set_duration :
    nextIs (exec (.seekSetDuration f64Thousand) State.reset)
        (fun t => t.seek.totalMs = f64Thousand) = true ∧
      nextIs (exec (.seekSetDuration 0) State.reset) (fun t => t.lastErr = .badDuration) = true := by
  decide +kernel

/-- A stereo stream of 1000 ms. -/
def timed : State := { stereo with seek := { stereo.seek with totalMs := f64Thousand } }

/-- R931's example: −500 ms. -/
theorem test_seek :
    nextIs (exec (.seekSeek 0xC07F400000000000#64) timed)
      (fun t =>
        t.res0 = 0x407F400000000000#64 && t.seek.pend = some 48000 &&
          t.evq = [.seek 0x407F400000000000#64 48000 96000]) = true := by decide +kernel

/-- R931: behind the position, the position moves and the leftover is dropped. -/
theorem test_seek_backward :
    nextIs
      (exec (.seekSeek 0) { timed with seek := { timed.seek with pos := 4, left := [1#8] } })
      (fun t =>
        t.seek.pos = 0 && t.seek.pend = none && t.seek.left = [] && t.evq = [.seek 0 0 0]) = true := by
  decide +kernel

/-! ### Witnesses: the hypotheses of every obligation that has some are met -/

theorem witness_DecoderAcceptsOnlyEncodings :
    takeCommand (List.replicate 12 0#8) = some (⟨0, 0, []⟩, []) ∧
      decodeCommand ⟨0, 0, []⟩ = .ok .ctlNop := by decide

/-- A PUSH of one byte, on the port byte by byte. -/
def pushOne : List Byte := [0#8, 0#8, 0#8, 3#8, 1#8, 0#8, 0#8, 0#8, 0#8, 0#8, 0#8, 0#8, 9#8, 0#8, 0#8, 0#8]

theorem witness_CommandLength :
    takeCommand (pushOne.take 11) = none ∧ takeCommand (pushOne.take 12) = none ∧
      takeCommand (pushOne.take 15) = none ∧
      takeCommand pushOne = some (⟨0x03000000, 1, [9#8]⟩, []) := by decide

theorem witness_StepRunsDecodedCommand :
    decode ({ State.reset with port := pushOne } : State).port = .ok (.ctlPush [9#8], []) := by decide

/-- Twelve bytes of UNIT 6. -/
def unitSix : List Byte := [0#8, 0#8, 0#8, 0x60#8, 0#8, 0#8, 0#8, 0#8, 0#8, 0#8, 0#8, 0#8]

theorem witness_IllegalEncodingRejected :
    takeCommand unitSix = some (⟨0x60000000, 0, []⟩, []) ∧
      ∀ r ∈ opcodeTable, r.admits 0x60000000 = true → operandAllowed r.kind 0 = false := by decide

theorem witness_IllegalEncodingRejected_operand :
    ∀ r ∈ opcodeTable, r.admits 0x04000000 = true → operandAllowed r.kind 1 = false := by decide

theorem witness_CoreWaitsForWholeCommand :
    step State.reset = .fault .portEmpty ∧
      step { State.reset with port := pushOne.take 15 } = .fault .commandCutShort := ⟨rfl, rfl⟩

theorem witness_RejectedCommandHasNoEffect :
    ∃ t, step { State.reset with port := pushOne } = .next t ∧ t.lastErr ≠ .ok :=
  ⟨_, rfl, by decide⟩

theorem witness_StickyErrorBit_kept :
    ∃ t, step { State.reset with port := List.replicate 12 0#8 } = .next t ∧ t.lastErr = .ok :=
  ⟨_, rfl, rfl⟩

theorem witness_StickyErrorBit_cleared :
    takeCommand [0#8, 0#8, 0#8, 8#8, 0#8, 0#8, 0#8, 0#8, 0#8, 0#8, 0#8, 0#8] =
        some (⟨0x08000000, 0, []⟩, []) ∧
      decodeCommand ⟨0x08000000, 0, []⟩ = .ok .ctlAckErr := by decide

theorem witness_AtMostOneEvent :
    (∃ t, exec .ctlReset stereo = .next t) ∧ (∃ t, exec .ctlPopEvent stereo = .next t) ∧
      ∃ t, exec .bqEnable stereo = .next t ∧ t.evq = stereo.evq ++ [.reconfig 0x0100 1] :=
  ⟨⟨_, rfl⟩, ⟨_, rfl⟩, _, rfl, rfl⟩

theorem witness_ReconfigEventMatchesRegister :
    (∃ t, exec .bqEnable stereo = .next t ∧ t.lastErr = .ok ∧ setterAddress .bqEnable = some 0x0100) ∧
      ∃ t, exec (.ctlStreamError .ioFailure) stereo = .next t ∧
        setterAddress (.ctlStreamError .ioFailure) = none :=
  ⟨⟨_, rfl, rfl, rfl⟩, _, rfl, rfl⟩

theorem witness_ResultRegisters :
    (∃ t, exec (.ctlReadReg 0x0100) stereo = .next t ∧ t.lastErr = .ok) ∧
      (∃ t, exec .ctlReset stereo = .next t) ∧ (∃ t, exec .ctlPopEvent stereo = .next t) ∧
      (∃ t, exec (.seekSeek 0) stereo = .next t ∧ t.lastErr = .ok) ∧
      ∃ t, exec .ctlEnd State.reset = .next t ∧ t.lastErr ≠ .ok :=
  ⟨⟨_, rfl, rfl⟩, ⟨_, rfl⟩, ⟨_, rfl⟩, ⟨_, rfl, rfl⟩, _, rfl, by decide⟩

theorem witness_OutputOnlyGrows : ∃ t, exec (.ctlPush [1#8]) stereo = .next t := ⟨_, rfl⟩

theorem witness_StatusAndInterrupt :
    (∃ t, exec .ctlEnd { State.reset with evq := [.error 1] } = .next t ∧ t.lastErr ≠ .ok ∧ t.irq = true) ∧
      ∃ t, exec .ctlPopEvent { State.reset with evq := [.error 1] } = .next t ∧ t.irq = false :=
  ⟨⟨_, rfl, by decide, rfl⟩, _, rfl, rfl⟩

theorem witness_PhaseAndGeometryTransitions :
    (∃ t, exec .ctlCreate State.reset = .next t ∧ t.phase = .active) ∧
      (∃ t, exec .ctlDestroy stereo = .next t ∧ t.phase = .idle) ∧
      ∃ t, exec .bqEnable stereo = .next t ∧ stereo.phase = .active :=
  ⟨⟨_, rfl, rfl⟩, ⟨_, rfl, rfl⟩, _, rfl, rfl⟩

theorem witness_phases : State.reset.phase = .idle ∧ stereo.phase = .active := ⟨rfl, rfl⟩

theorem witness_EndAndStreamError :
    stereo.phase = .active ∧ stereo.seek.left.length < stereo.geo.frameBytes := by decide

theorem witness_GeometrySetters :
    (32 : Word) = BitDepth.b32.code ∧ (1 : Word) = Endian.big.code ∧
      1 ≤ (1 : Word).toNat ∧ (1 : Word).toNat ≤ Config.maxChannels := by
  refine ⟨rfl, rfl, by decide, ?_⟩
  simp [Config.maxChannels]

theorem witness_GeometrySetters_rejected : (0 : Word).toNat = 0 ∧ (24 : Word) ≠ 16 ∧ (2 : Word) ≠ 0 := by
  decide

/-- A state whose rate may become 20: BQ_FREQ 0. -/
def lowFreq : State := { State.reset with bq := { State.reset.bq with freq := 0 } }

theorem witness_SetRateEffect :
    1 ≤ (20 : Word).toNat ∧ (20 : Word).toNat ≤ Config.maxRate ∧
      flt (toF64 20) (fmul f64Two lowFreq.bq.freq) = false ∧
      (design lowFreq.bq.type (toF64 20) lowFreq.bq.freq lowFreq.bq.q lowFreq.bq.gain).finite = true := by
  refine ⟨by decide, ?_, by decide +kernel, by decide +kernel⟩
  simp [Config.maxRate]

theorem witness_SetRateEffect_badFrequency :
    flt (toF64 20) (fmul f64Two State.reset.bq.freq) = true := by decide +kernel

/-- With Q = 0, which no run reaches, the LOWPASS design at f = 0 has a0 = 1 + 0/0. -/
theorem witness_SetRateEffect_badParam :
    (design .lowpass (toF64 20) 0 0 0).finite = false := by decide +kernel

theorem witness_ReadRegEffect : definedAddress 2 0x4007 ∧ ¬ definedAddress 2 0x4008 := by
  constructor
  · exact Or.inr (Or.inr (Or.inr (Or.inr (Or.inr (Or.inr (Or.inr (Or.inr ⟨1, 3, by decide, by decide, rfl⟩)))))))
  · rintro (h | h | h | h | h | h | h | h | ⟨c, k, h1, h2, h3⟩) <;> omega

theorem witness_PopEventAndAckErr :
    ({ stereo with evq := [.seek 0 0 0] } : State).evq = .seek 0 0 0 :: [] ∧ stereo.evq = [] := ⟨rfl, rfl⟩

theorem witness_BqSetters : (10 : F64) = FilterType.singlePoleLowpassApprox.code ∧ 10 < (11 : F64).toNat := by
  decide

theorem witness_CoefficientsAndLibmValues :
    1 ≤ 48000 ∧ 48000 ≤ 2 ^ 53 ∧ f64IsFinite Config.qBw = true ∧ flt f64Zero Config.qBw = true := by
  decide +kernel

theorem witness_BqHistoryShift : Memory.wf [(0, f64One), (6, f64Two)] := by decide

theorem witness_BqNoneIsIdentity :
    BitDepth.b16.inRange (-32768) ∧ BitDepth.b32.inRange 2147483647 ∧ Memory.wf [(0, f64One)] ∧
      ∀ k, k < 4 → f64IsFinite (Memory.read [(0, f64One)] (4 * 0 + k)) = true := by
  refine ⟨by decide, by decide, by decide, ?_⟩
  decide +kernel

theorem witness_setters : f64IsNaN f64NaN = true ∧ f64IsNaN f64Half = false := by decide +kernel

/-- A level in the knee, below it and above it, and a hard knee met exactly. -/
theorem witness_GainComputerRegions :
    let d := fun level => fsub level f64NegTwenty
    let hk := fdiv f64Two f64Two
    fle (fabs (d f64NegTwenty)) hk = true ∧ feq f64Two f64Zero = false ∧
      (fle (fabs (d f64NegHundred)) hk = false ∧ flt (d f64NegHundred) f64Zero = true) ∧
      (fle (fabs (d f64Zero)) hk = false ∧ flt (d f64Zero) f64Zero = false) ∧
      fle (fabs (d f64NegTwenty)) (fdiv f64Zero f64Two) = true := by decide +kernel

theorem witness_CompressorStep_silence :
    f64IsFinite f64NegTwenty = true ∧ fle f64Two f64Twenty = true := by decide +kernel

theorem witness_GainComputerRegions_ratioOne :
    fle f64Zero f64Twenty = true ∧ fle f64Twenty f64Twenty = true ∧
      f64IsFinite (fsub f64NegOne f64Zero) = true ∧ fsub (f64InfOf true) f64Zero = f64InfOf true := by
  decide +kernel

theorem witness_CompressorStep :
    BitDepth.b16.inRange 16384 ∧ State.reset.cmp.attackC = f64Zero ∧ State.reset.cmp.releaseC = f64Zero ∧
      f64IsFinite State.reset.cmp.env = true ∧ f64IsFinite State.reset.cmp.gr = true := by
  refine ⟨by decide, rfl, rfl, by decide +kernel, by decide +kernel⟩

theorem witness_RvbTouchesOneCellPerLine :
    echoing.line.wf ∧ echoing.cursor.toNat < echoing.lineLen.toNat := by decide

theorem witness_WetOffProperty :
    let u := { echoing with wet := f64Zero }
    u.wet = f64Zero ∧
      f64IsFinite
        (fdiv
          (sweepLines f64Half (fmul u.room (fsub f64One u.damping)) (toF64 101)
            u.lineLen.toNat u.cursor.toNat 4 0 ⟨u.line, f64Zero, 0⟩).wet
          (toF64 (4 : Nat))) = true := by decide +kernel

theorem witness_VolumeAndDurationSetters :
    f64IsFinite f64Hundred = true ∧ fle f64Hundred f64Zero = false ∧ fle f64Zero f64Zero = true ∧
      flt f64NegOne f64Zero = true ∧ flt f64Inf f64Zero = false ∧ f64IsNaN f64Inf = false ∧
      flt 0x8000000000000000#64 f64Zero = false := by decide +kernel

theorem witness_VolumeStep :
    feq f64One f64One = true ∧ feq f64Half f64One = false ∧
      BitDepth.b16.inRange 20000 ∧ f64One = fdiv f64Hundred f64Hundred ∧
      f64Two = fdiv 0x4069000000000000#64 f64Hundred ∧ f64Zero = fdiv f64Zero f64Hundred := by
  refine ⟨by decide +kernel, by decide +kernel, by decide, ?_⟩
  decide +kernel

/-- A time of 500 ms at 48000 Hz is frame 24000. -/
theorem witness_SeekEffect :
    timed.phase = .active ∧ feq timed.seek.totalMs f64Zero = false ∧
      f64Rat (fdiv (fmul (resolve timed.seek.totalMs 0x407F400000000000#64) timed.geo.rateF) f64Thousand) =
        some ((signedMag false 24000 : Int) : ℚ) :=
  ⟨rfl, by decide +kernel, f64Rat_of_units (by decide +kernel)⟩

/-- At the largest duration the product of time and rate overflows. -/
theorem witness_SeekTargetArithmetic_overflow :
    timed.phase = .active ∧ f64IsNaN f64Inf = false ∧ feq Config.volMax f64Zero = false ∧
      f64IsFinite (fdiv (fmul (resolve Config.volMax f64Inf) timed.geo.rateF) f64Thousand) = false ∧
      2 ^ 64 - 1 < 2 ^ 64 * timed.geo.chans := by
  refine ⟨rfl, ?_⟩
  decide +kernel

theorem witness_ResolveStaysInRange :
    f64IsFinite f64Thousand = true ∧ flt f64Zero f64Thousand = true ∧ f64IsNaN (f64InfOf true) = false ∧
      flt f64NegOne f64Zero = true ∧ flt f64Zero (fadd f64Thousand f64NegOne) = true ∧
      fle (fadd f64Hundred (fneg f64Thousand)) f64Zero = true ∧
      fle f64Thousand 0x4097700000000000#64 = true ∧ fle f64Thousand f64Thousand = true := by
  decide +kernel

/-- R911's example: with T 1000, 1500 ms resolves to 1000. -/
theorem test_resolve_above : resolve f64Thousand 0x4097700000000000#64 = f64Thousand := by decide +kernel

/-- R912, D38: where the product overflows, the target is the largest multiple of CHANNELS below 2^64. -/
theorem test_seek_overflow :
    seekTarget 3 (seekFrames f64Inf) = 2 ^ 64 - 1 ∧ seekTarget 2 (seekFrames f64Inf) = 2 ^ 64 - 2 := by
  decide +kernel

theorem witness_SeekTargetArithmetic : 2 ^ 64 - 1 < 2 ^ 63 * 3 ∧ 2 ^ 62 * 3 ≤ 2 ^ 64 - 1 := by decide

theorem witness_SeekTwiceIsIdempotent :
    ∃ t, exec (.seekSeek 0x407F400000000000#64) timed = .next t := by
  have h : nextIs (exec (.seekSeek 0x407F400000000000#64) timed) (fun _ => true) = true := by
    decide +kernel
  cases ht : exec (.seekSeek 0x407F400000000000#64) timed with
  | next t => exact ⟨t, rfl⟩
  | fault e => rw [ht] at h; cases h
  | refused e => rw [ht] at h; cases h

/-- With a chunk of two frames, a stereo machine passes four samples. -/
theorem witness_PushEffectAndFrame :
    stereo.rvb.cursor.toNat < stereo.rvb.lineLen.toNat ∧
      (track stereo.geo stereo.seek (stereo.seek.left ++ [1, 0, 2, 0, 3, 0, 4, 0])).1.length = 8 ∧
      (track stereo.geo stereo.seek (stereo.seek.left ++ [1])).1 = [] := by decide

theorem witness_PushOneFrameThroughChain :
    stereo.phase = .active ∧ [(-1 : Int), 2].length = stereo.geo.chans ∧ stereo.seek.left = [] ∧
      stereo.seek.pend = none ∧ ∀ v ∈ [(-1 : Int), 2], stereo.geo.bitdepth.inRange v :=
  ⟨rfl, rfl, rfl, rfl, by decide⟩

theorem witness_PassthroughWhenDisabled : stereo.phase = .active ∧ stereo.allDisabled :=
  ⟨rfl, rfl, rfl, rfl, rfl⟩

theorem stereo_lifecycleOk : stereo.lifecycleOk := by
  show 1 ≤ stereo.rvb.lineLen.toNat ∧ stereo.rvb.cursor.toNat < stereo.rvb.lineLen.toNat
  decide

theorem witness_PushSplitInvariance :
    stereo.framingOk ∧ stereo.phase = .active ∧ stereo.geo.chans ∣ stereo.seek.pos.toNat ∧
      ∃ s1 s2, exec (.ctlPush [1#8]) stereo = .next s1 ∧ exec (.ctlPush [2#8, 3#8]) s1 = .next s2 := by
  refine ⟨⟨stereo_lifecycleOk, by decide, by decide, ?_⟩, rfl, by decide, _, _, rfl, rfl⟩
  intro p hp
  cases hp

theorem witness_SampleCodecRoundTrip :
    [1#8, 0xFF#8].length = State.reset.geo.byteWidth ∧ BitDepth.b16.inRange (-255) ∧
      sampleOfBytes State.reset.geo [1#8, 0xFF#8] = -255 := by
  refine ⟨by decide, by decide, by decide +kernel⟩

theorem witness_SamplesStayInRange : State.reset.geo.bitdepth.inRange 32767 := by decide

theorem witness_DisabledUnitsFrozen :
    stereo.cmp.en = false ∧ stereo.rvb.en = false ∧ stereo.bq.en = false ∧ stereo.vol.en = false ∧
      ∃ t, exec (.ctlPush [1#8]) stereo = .next t := ⟨rfl, rfl, rfl, rfl, _, rfl⟩

theorem witness_CellsInvariantKept :
    stereo.cellsOk ∧ ∃ t, step { stereo with port := List.replicate 12 0#8 } = .next t := by
  refine ⟨⟨witness_PushSplitInvariance.1, by decide, by decide, ?_, ?_⟩, _, rfl⟩
  · intro c hc; cases hc
  · intro c hc; cases hc

/-- Reset with one NOP on the port. -/
def resetWithNop : State := { State.reset with port := List.replicate 12 0#8 }

theorem witness_ParametersInvariantKept : resetWithNop.paramsOk ∧ ∃ t, step resetWithNop = .next t := by
  refine ⟨⟨⟨by decide, le_max_right _ _⟩, ⟨by decide, le_max_right _ _⟩, ?_⟩, _, rfl⟩
  decide +kernel

theorem witness_DerivedInvariantKept :
    resetWithNop.derivedOk ∧ resetWithNop.stickyOk ∧ ∃ t, step resetWithNop = .next t := by
  refine ⟨⟨rfl, by decide +kernel, by decide +kernel, by decide +kernel, by decide +kernel⟩, ?_, _, rfl⟩
  intro h
  exact absurd rfl h

theorem witness_PositionInvariantKept :
    let s := { stereo with port := List.replicate 12 0#8 }
    s.framingOk ∧ s.geo.chans ∣ s.seek.pos.toNat ∧
      s.seek.pos.toNat + s.seek.left.length + s.port.length < 2 ^ 64 ∧ ∃ t, step s = .next t :=
  ⟨witness_PushSplitInvariance.1, by decide, by decide, _, rfl⟩

theorem witness_HostMovesCommute :
    (∃ t, step { stereo with port := List.replicate 12 0#8, out := [1#8] } = .next t) ∧
      1 ≤ ({ stereo with out := [1#8] } : State).out.length := ⟨⟨_, rfl⟩, by decide⟩

theorem witness_FloatingPointPrimitives :
    f64Rat f64One = some ((signedMag false 1 : Int) : ℚ) ∧
      f64Rat f64NegTwo = some ((signedMag true 2 : Int) : ℚ) :=
  ⟨f64Rat_of_units (by decide +kernel), f64Rat_of_units (by decide +kernel)⟩

/-- Both zeros are worth 0, and their exact zero sum −0 + −0 keeps the sign. -/
theorem witness_FloatingPointPrimitives_zeros :
    f64Rat f64Zero = some ((signedMag false 0 : Int) : ℚ) ∧
      f64Rat (fneg f64Zero) = some ((signedMag true 0 : Int) : ℚ) ∧
      fadd (fneg f64Zero) (fneg f64Zero) = fneg f64Zero ∧ fmul f64Zero f64NegOne = fneg f64Zero ∧
      fsqrt (fneg f64Zero) = fneg f64Zero :=
  ⟨f64Rat_of_units (by decide +kernel), f64Rat_of_units (by decide +kernel), by decide +kernel,
    by decide +kernel, by decide +kernel⟩

theorem witness_FloatingPointPrimitives_specials :
    f64IsNaN f64NaN = true ∧ flt f64NegOne f64Zero = true ∧ f64IsFinite f64NegOne = true ∧
      feq f64NegOne f64Zero = false ∧ f64IsFinite f64Zero = true ∧ feq f64Zero f64Zero = true := by
  decide +kernel

theorem witness_QuantRule : f64IsNaN f64NaN = true ∧ quant 32768 0xC07F480000000000#64 = -500 := by
  decide +kernel

end Sys2Proof.Tests
end

section
/-!
A binary64 pattern as its sign bit and the 63 bits below it: negation, absolute value and the unpacked form
in these terms, and which counts of quanta are finite numbers.
-/

namespace Sys2Proof.Machine

/-! ### The sign bit and the 63 bits below it -/

/-- The 63 bits below the sign bit. -/
def f64Low (x : F64) : Nat := x.toNat % 2 ^ 63

theorem f64Low_lt (x : F64) : f64Low x < 2 ^ 63 := Nat.mod_lt _ (by decide)

theorem toNat_eq_sign_add_low (x : F64) :
    x.toNat = (if f64Sign x then 2 ^ 63 else 0) + f64Low x := by
  have := x.isLt
  unfold f64Sign f64Low
  simp only [decide_eq_true_eq]
  split <;> omega

/-- A pattern is its sign bit and the 63 bits below it. -/
theorem f64Pack_sign_low (x : F64) : f64Pack (f64Sign x) (f64Low x) = x := by
  apply BitVec.eq_of_toNat_eq
  rw [f64Pack_toNat _ (f64Low_lt x), ← toNat_eq_sign_add_low]

theorem f64Sign_pack (s : Bool) {low : Nat} (h : low < 2 ^ 63) : f64Sign (f64Pack s low) = s := by
  unfold f64Sign
  rw [f64Pack_toNat s h]
  cases s <;> simp only [if_true, Bool.false_eq_true, if_false, decide_eq_true_eq,
    decide_eq_false_iff_not] <;> omega

theorem f64Low_pack (s : Bool) {low : Nat} (h : low < 2 ^ 63) : f64Low (f64Pack s low) = low := by
  unfold f64Low
  rw [f64Pack_toNat s h]
  cases s <;> simp only [if_true, Bool.false_eq_true, if_false] <;> omega

/-- A pattern as its sign bit before its 63 low bits. -/
theorem eq_append_low (x : F64) :
    x = BitVec.ofBool (f64Sign x) ++ BitVec.ofNat 63 (f64Low x) := by
  have h := f64Low_lt x
  apply BitVec.eq_of_toNat_eq
  rw [BitVec.toNat_append, BitVec.toNat_ofNat, Nat.mod_eq_of_lt h, ← Nat.shiftLeft_add_eq_or_of_lt h,
    toNat_eq_sign_add_low x]
  cases f64Sign x <;> rfl

theorem append_low_eq_pack (b : Bool) {low : Nat} (h : low < 2 ^ 63) :
    BitVec.ofBool b ++ BitVec.ofNat 63 low = f64Pack b low := by
  conv_rhs => rw [eq_append_low (f64Pack b low), f64Sign_pack b h, f64Low_pack b h]

/-- Negation flips the sign bit and keeps the rest. -/
theorem fneg_eq_pack (x : F64) : fneg x = f64Pack (!f64Sign x) (f64Low x) := by
  rw [← append_low_eq_pack _ (f64Low_lt x)]
  conv_lhs => rw [fneg, eq_append_low x,
    show (0x8000000000000000#64 : F64) = BitVec.ofBool true ++ 0#63 by decide, BitVec.xor_append]
  cases f64Sign x <;> simp

/-- The absolute value clears the sign bit and keeps the rest. -/
theorem fabs_eq_pack (x : F64) : fabs x = f64Pack false (f64Low x) := by
  rw [← append_low_eq_pack _ (f64Low_lt x)]
  conv_lhs => rw [fabs, eq_append_low x,
    show (0x7FFFFFFFFFFFFFFF#64 : F64) = BitVec.ofBool false ++ BitVec.allOnes 63 by decide,
    BitVec.and_append, BitVec.and_allOnes]
  cases f64Sign x <;> rfl

@[simp] theorem f64Sign_fneg (x : F64) : f64Sign (fneg x) = !f64Sign x := by
  rw [fneg_eq_pack, f64Sign_pack _ (f64Low_lt x)]

@[simp] theorem f64Low_fneg (x : F64) : f64Low (fneg x) = f64Low x := by
  rw [fneg_eq_pack, f64Low_pack _ (f64Low_lt x)]

@[simp] theorem f64Sign_fabs (x : F64) : f64Sign (fabs x) = false := by
  rw [fabs_eq_pack, f64Sign_pack _ (f64Low_lt x)]

@[simp] theorem f64Low_fabs (x : F64) : f64Low (fabs x) = f64Low x := by
  rw [fabs_eq_pack, f64Low_pack _ (f64Low_lt x)]

/-! ### The unpacked form by sign and low bits -/

/-- The unpacked form of a sign and 63 bits below it. -/
theorem f64Unpack_eq (x : F64) :
    f64Unpack x =
      if f64Low x < 2047 * 2 ^ 52 then .fin (f64Sign x) (magOfLow (f64Low x))
      else if f64Low x = 2047 * 2 ^ 52 then .inf (f64Sign x) else .nan := by
  split
  next h => conv_lhs => rw [← f64Pack_sign_low x, f64Unpack_pack _ h]
  next h =>
    have hlt := f64Low_lt x
    have he : x.toNat / 2 ^ 52 % 2 ^ 11 = 2047 := by unfold f64Low at *; omega
    have hf : x.toNat % 2 ^ 52 = f64Low x - 2047 * 2 ^ 52 := by unfold f64Low at *; omega
    unfold f64Unpack f64Sign
    simp only [he, hf, if_true]
    by_cases hinf : f64Low x = 2047 * 2 ^ 52
    · rw [if_pos hinf, if_pos (by omega)]
    · rw [if_neg hinf, if_neg (by omega)]

/-- A finite pattern is the sign and the low bits of its quanta. -/
theorem low_of_fin {x : F64} {s : Bool} {m : Nat} (h : f64Unpack x = .fin s m) :
    f64Sign x = s ∧ f64Low x < 2047 * 2 ^ 52 ∧ m = magOfLow (f64Low x) := by
  rw [f64Unpack_eq] at h
  split at h
  next hl =>
    obtain ⟨hs, hm⟩ := F64Val.fin.inj h
    exact ⟨hs, hl, hm.symm⟩
  next =>
    split at h <;> cases h

/-- The value of the other sign. -/
def F64Val.neg : F64Val → F64Val
  | .nan => .nan
  | .inf s => .inf (!s)
  | .fin s m => .fin (!s) m

theorem f64Unpack_fneg (x : F64) : f64Unpack (fneg x) = (f64Unpack x).neg := by
  rw [f64Unpack_eq (fneg x), f64Unpack_eq x, f64Low_fneg, f64Sign_fneg]
  split
  · rfl
  · split <;> rfl

theorem f64IsNaN_iff {x : F64} : f64IsNaN x = true ↔ f64Unpack x = .nan := by
  unfold f64IsNaN
  cases f64Unpack x <;> simp

theorem f64IsFinite_iff {x : F64} : f64IsFinite x = true ↔ ∃ s m, f64Unpack x = .fin s m := by
  unfold f64IsFinite
  cases f64Unpack x <;> simp

theorem f64Unpack_fneg_fin {x : F64} {s : Bool} {m : Nat} (h : f64Unpack x = .fin s m) :
    f64Unpack (fneg x) = .fin (!s) m := by
  rw [f64Unpack_fneg, h]
  rfl

theorem f64IsNaN_fneg (x : F64) : f64IsNaN (fneg x) = f64IsNaN x := by
  unfold f64IsNaN
  rw [f64Unpack_fneg]
  cases f64Unpack x <;> rfl

theorem fneg_infOf (s : Bool) : fneg (f64InfOf s) = f64InfOf (!s) := by
  cases s <;> decide

/-- The zero of a sign is the only pattern of that sign with no quanta. -/
theorem eq_zero_of_fin_zero {x : F64} {s : Bool} (h : f64Unpack x = .fin s 0) : x = f64Pack s 0 := by
  obtain ⟨hs, -, hm⟩ := low_of_fin h
  have h0 : f64Low x = 0 := by
    by_contra hne
    have := magOfLow_pos (Nat.pos_of_ne_zero hne)
    omega
  rw [← f64Pack_sign_low x, hs, h0]

/-- Which counts of quanta are finite binary64 numbers, seen from binade `k`: whole multiples of the
binade's unit, and smaller numbers than the binade's least. -/
theorem magOfLow_multiple_or_lt (low k : Nat) :
    2 ^ k ∣ magOfLow low ∨ (0 < k ∧ magOfLow low < 2 ^ (52 + k)) := by
  rcases Nat.eq_zero_or_pos k with rfl | hk
  · exact Or.inl (one_dvd _)
  have hf : low % 2 ^ 52 < 2 ^ 52 := Nat.mod_lt _ (by decide)
  unfold magOfLow
  split
  next =>
    exact Or.inr ⟨hk, hf.trans_le (Nat.pow_le_pow_right (by decide) (by omega))⟩
  next he =>
    rcases Nat.lt_or_ge (low / 2 ^ 52 - 1) k with hlt | hge
    · refine Or.inr ⟨hk, ?_⟩
      calc (2 ^ 52 + low % 2 ^ 52) * 2 ^ (low / 2 ^ 52 - 1)
          < 2 ^ 53 * 2 ^ (low / 2 ^ 52 - 1) :=
            Nat.mul_lt_mul_of_pos_right (by omega) (Nat.two_pow_pos _)
        _ = 2 ^ (53 + (low / 2 ^ 52 - 1)) := (pow_add _ _ _).symm
        _ ≤ 2 ^ (52 + k) := Nat.pow_le_pow_right (by decide) (by omega)
    · exact Or.inl ((pow_dvd_pow 2 hge).mul_left _)

/-- Numbers whose exponent field is at most `j` are below 2^(52 + j) quanta. -/
theorem magOfLow_lt {low j : Nat} (h : low < (j + 1) * 2 ^ 52) : magOfLow low < 2 ^ (52 + j) := by
  have hf : low % 2 ^ 52 < 2 ^ 52 := Nat.mod_lt _ (by decide)
  unfold magOfLow
  split
  next => exact hf.trans_le (Nat.pow_le_pow_right (by decide) (by omega))
  next =>
    calc (2 ^ 52 + low % 2 ^ 52) * 2 ^ (low / 2 ^ 52 - 1)
        < 2 ^ 53 * 2 ^ (low / 2 ^ 52 - 1) :=
          Nat.mul_lt_mul_of_pos_right (by omega) (Nat.two_pow_pos _)
      _ = 2 ^ (53 + (low / 2 ^ 52 - 1)) := (pow_add _ _ _).symm
      _ ≤ 2 ^ (52 + j) := Nat.pow_le_pow_right (by decide) (by omega)

end Sys2Proof.Machine
end

section
/-!
Rounding to nearest, ties to even (R14): `roundEven` and `f64Round` against the real they stand for, seen
in quanta, and the bound from which on the result is an infinity.
-/

namespace Sys2Proof.Machine

/-! ### The rounding rule in real numbers -/

/-- `num / den` lies as the real `t` does towards every multiple of a half: as far as rounding goes, it
stands for `t`. -/
def SameHalves (t : ℝ) (num den : Nat) : Prop :=
  ∀ j : Nat, ((j : ℝ) ≤ 2 * t ↔ j * den ≤ 2 * num) ∧ (2 * t ≤ j ↔ 2 * num ≤ j * den)

theorem sameHalves_div {num den : Nat} (h : 0 < den) : SameHalves ((num : ℝ) / den) num den := by
  have hd : (0 : ℝ) < den := Nat.cast_pos.2 h
  intro j
  rw [← mul_div_assoc, le_div_iff₀ hd, div_le_iff₀ hd]
  exact ⟨by norm_cast, by norm_cast⟩

/-- `q` is the whole number of units of 2^k nearest to `t`, ties to even. -/
structure IsRounded (t : ℝ) (k q : Nat) : Prop where
  near : 2 * |q * 2 ^ k - t| ≤ 2 ^ k
  even_of_tie : 2 * |q * 2 ^ k - t| = 2 ^ k → q % 2 = 0

theorem isRounded_of_below {t : ℝ} {k a : Nat} (h1 : (a : ℝ) * 2 ^ k ≤ t)
    (h2 : 2 * t ≤ (2 * a + 1) * 2 ^ k) (htie : 2 * t = (2 * a + 1) * 2 ^ k → a % 2 = 0) :
    IsRounded t k a where
  near := by rw [abs_of_nonpos (by linarith)]; linarith
  even_of_tie := by
    rw [abs_of_nonpos (by linarith)]
    exact fun h => htie (by linarith)

theorem isRounded_of_above {t : ℝ} {k a : Nat} (h1 : t ≤ ((a + 1 : Nat) : ℝ) * 2 ^ k)
    (h2 : (2 * a + 1) * 2 ^ k ≤ 2 * t) (htie : 2 * t = (2 * a + 1) * 2 ^ k → a % 2 = 1) :
    IsRounded t k (a + 1) where
  near := by
    rw [abs_of_nonneg (by linarith)]
    push_cast
    linarith
  even_of_tie := by
    rw [abs_of_nonneg (by linarith)]
    push_cast
    intro h
    have := htie (by linarith)
    omega

/-- `roundEven` rounds to nearest, ties to even. -/
theorem isRounded_roundEven {t : ℝ} {num den : Nat} (h : SameHalves t num den) (hd : 0 < den) (k : Nat) :
    IsRounded t k (roundEven num (den <<< k)) := by
  rw [Nat.shiftLeft_eq]
  have hu : 0 < den * 2 ^ k := Nat.mul_pos hd (Nat.two_pow_pos k)
  have hdiv := Nat.div_add_mod num (den * 2 ^ k)
  have hlt := Nat.mod_lt num hu
  set a := num / (den * 2 ^ k) with ha
  set r := num % (den * 2 ^ k) with hr
  -- the multiples of half a unit around `num / den`
  have hhalf (c : Nat) : ((c : ℝ) * 2 ^ k ≤ 2 * t ↔ c * (den * 2 ^ k) ≤ 2 * num) ∧
      (2 * t ≤ (c : ℝ) * 2 ^ k ↔ 2 * num ≤ c * (den * 2 ^ k)) := by
    have := h (c * 2 ^ k)
    push_cast at this
    rwa [show c * 2 ^ k * den = c * (den * 2 ^ k) by ring] at this
  generalize den * 2 ^ k = u at *
  have hfloor : (a : ℝ) * 2 ^ k ≤ t := by
    have := (hhalf (2 * a)).1.2 (by nlinarith)
    push_cast at this
    linarith
  have hceil : t ≤ ((a + 1 : Nat) : ℝ) * 2 ^ k := by
    have := (hhalf (2 * (a + 1))).2.2 (by nlinarith)
    push_cast at this ⊢
    linarith
  have hmid := hhalf (2 * a + 1)
  push_cast at hmid
  have hsplit : (2 * a + 1) * u = 2 * (u * a) + u := by ring
  unfold roundEven
  simp only [← ha, ← hr]
  split
  next hup =>
    refine isRounded_of_above hceil (hmid.1.2 (by omega)) fun htie => ?_
    have := hmid.2.1 htie.le
    omega
  next hdown =>
    refine isRounded_of_below hfloor (hmid.2.2 (by omega)) fun htie => ?_
    have := hmid.1.1 htie.ge
    omega

/-- No whole multiple of the unit is nearer, and as near only to an even result. -/
theorem IsRounded.nearest {t : ℝ} {k q : Nat} (h : IsRounded t k q) (j : Int) :
    |(q : ℝ) * 2 ^ k - t| ≤ |(j : ℝ) * 2 ^ k - t| ∧
      (|(j : ℝ) * 2 ^ k - t| = |(q : ℝ) * 2 ^ k - t| → j ≠ q → q % 2 = 0) := by
  by_cases hj : j = q
  · subst hj
    exact ⟨by simp, fun _ hne => absurd rfl hne⟩
  have hgap : (2 : ℝ) ^ k ≤ |(j : ℝ) * 2 ^ k - t| + |(q : ℝ) * 2 ^ k - t| :=
    calc (2 : ℝ) ^ k ≤ |((j - q : Int) : ℝ)| * 2 ^ k := by
          have : (1 : ℝ) ≤ |((j - q : Int) : ℝ)| := by
            exact_mod_cast Int.one_le_abs (sub_ne_zero.2 hj)
          nlinarith [pow_pos (two_pos (α := ℝ)) k]
      _ = |((j : ℝ) * 2 ^ k - t) - ((q : ℝ) * 2 ^ k - t)| := by
          rw [sub_sub_sub_cancel_right, ← sub_mul, abs_mul, abs_of_pos (pow_pos (two_pos (α := ℝ)) k)]
          push_cast
          rfl
      _ ≤ _ := abs_sub _ _
  have hnear := h.near
  exact ⟨by linarith, fun he _ => h.even_of_tie (by linarith)⟩

/-- A 53-bit significand rounds up to the next power of two from the midpoint below it on. -/
theorem IsRounded.eq_pow_iff {t : ℝ} {k q : Nat} (h : IsRounded t (k + 1) q) (hq : q ≤ 2 ^ 53) :
    q = 2 ^ 53 ↔ ((2 : ℝ) ^ 54 - 1) * 2 ^ k ≤ t := by
  obtain ⟨hnear, heven⟩ := h
  rw [pow_succ'] at hnear heven
  have hH : (0 : ℝ) < 2 ^ k := by positivity
  generalize (2 : ℝ) ^ k = H at *
  constructor
  · rintro rfl
    have := (abs_le.1 (show |((2 ^ 53 : Nat) : ℝ) * (2 * H) - t| ≤ H by linarith)).2
    push_cast at this
    linarith
  · intro ht
    by_contra hne
    have hq1 : (q : ℝ) + 1 ≤ 2 ^ 53 := by
      have : q + 1 ≤ 2 ^ 53 := by omega
      exact_mod_cast this
    have hle : t - q * (2 * H) ≤ H := by
      linarith [neg_abs_le ((q : ℝ) * (2 * H) - t)]
    have hge : H ≤ t - q * (2 * H) := by nlinarith
    have hodd : q = 2 ^ 53 - 1 := by
      have : (2 : ℝ) ^ 53 ≤ q + 1 := by nlinarith
      have : 2 ^ 53 ≤ q + 1 := by exact_mod_cast this
      omega
    have htie : 2 * |(q : ℝ) * (2 * H) - t| = 2 * H := by
      rw [abs_of_nonpos (by linarith)]
      linarith
    have := heven htie
    omega

/-! ### The binade -/

section
variable {t : ℝ} {num den : Nat}

theorem pow_le_of_le_div (h : SameHalves t num den) (hd : 0 < den) {e : Nat}
    (he : 2 ^ e ≤ num / den) : (2 : ℝ) ^ e ≤ t := by
  have hn := (Nat.le_div_iff_mul_le hd).1 he
  have := (h (2 * 2 ^ e)).1.2 (by rw [Nat.mul_assoc]; omega)
  push_cast at this
  linarith

theorem lt_pow_of_div_lt (h : SameHalves t num den) (hd : 0 < den) {e : Nat}
    (he : num / den < 2 ^ e) : t < (2 : ℝ) ^ e := by
  have hn := (Nat.div_lt_iff_lt_mul hd).1 he
  have := mt (h (2 * 2 ^ e)).1.1 (by rw [Nat.mul_assoc]; omega)
  push_cast at this
  linarith

theorem pow_roundBinade_le (h : SameHalves t num den) (hd : 0 < den) (hk : roundBinade num den ≠ 0) :
    (2 : ℝ) ^ (52 + roundBinade num den) ≤ t := by
  apply pow_le_of_le_div h hd
  have hq : num / den ≠ 0 := fun h0 => hk (by simp [roundBinade, h0])
  refine (Nat.pow_le_pow_right (by decide) ?_).trans (Nat.log2_self_le hq)
  unfold roundBinade at *
  omega

theorem lt_pow_roundBinade (h : SameHalves t num den) (hd : 0 < den) :
    t < (2 : ℝ) ^ (53 + roundBinade num den) := by
  apply lt_pow_of_div_lt h hd
  refine Nat.lt_log2_self.trans_le (Nat.pow_le_pow_right (by decide) ?_)
  unfold roundBinade
  omega

/-- Rounding overflows from the midpoint between the largest finite number and 2^1024 on. -/
theorem overflow_iff (h : SameHalves t num den) (hd : 0 < den) :
    2047 * 2 ^ 52 ≤ roundBinade num den * 2 ^ 52 + roundSig num den ↔
      ((2 : ℝ) ^ 54 - 1) * 2 ^ 2044 ≤ t := by
  have hround := isRounded_roundEven h hd (roundBinade num den)
  have hlow := pow_roundBinade_le h hd
  have hhigh := lt_pow_roundBinade h hd
  have hsig := roundSig_le num den
  have hsig' := le_roundSig (num := num) (den := den)
  rw [← roundSig] at hround
  generalize roundBinade num den = k at *
  generalize roundSig num den = q at *
  have hpow : (0 : ℝ) < 2 ^ 2044 := by positivity
  rcases Nat.lt_trichotomy k 2045 with hk | rfl | hk
  · refine iff_of_false (by omega) (not_le.2 ?_)
    calc t < 2 ^ (53 + k) := hhigh
      _ ≤ 2 ^ (53 + 2044) := pow_le_pow_right₀ one_le_two (by omega)
      _ = 2 ^ 53 * 2 ^ 2044 := pow_add _ _ _
      _ ≤ (2 ^ 54 - 1) * 2 ^ 2044 := by gcongr; norm_num
  · rw [← hround.eq_pow_iff hsig]
    omega
  · refine iff_of_true (by have := hsig' (by omega); omega) ?_
    calc (2 ^ 54 - 1) * (2 : ℝ) ^ 2044 ≤ 2 ^ 54 * 2 ^ 2044 := by gcongr; norm_num
      _ = 2 ^ (54 + 2044) := (pow_add _ _ _).symm
      _ ≤ 2 ^ (52 + k) := pow_le_pow_right₀ one_le_two (by omega)
      _ ≤ t := hlow (by omega)

end

/-! ### Rounding is to nearest, ties to even -/

/-- The real of a sign and a magnitude. -/
def signedReal (neg : Bool) (t : ℝ) : ℝ := if neg then -t else t

theorem signedMag_cast (neg : Bool) (m : Nat) : ((signedMag neg m : Int) : ℝ) = signedReal neg m := by
  cases neg <;> simp [signedMag, signedReal]

theorem abs_signedReal (neg : Bool) {t : ℝ} (ht : 0 ≤ t) : |signedReal neg t| = t := by
  cases neg <;> simp [signedReal, abs_of_nonneg ht]

/-- Distances are the same when both signs are flipped. -/
theorem abs_sub_signedReal (neg : Bool) (w t : ℝ) :
    |w - signedReal neg t| = |signedReal neg w - t| := by
  cases neg
  · rfl
  · rw [signedReal, signedReal, if_pos rfl, if_pos rfl, ← abs_neg]
    ring_nf

theorem signedReal_signedReal (neg : Bool) (t : ℝ) : signedReal neg (signedReal neg t) = t := by
  cases neg <;> simp [signedReal]

/-- The magnitude `f64Round` rounds to, in quanta. -/
def roundMag (num den : Nat) : Nat := roundSig num den * 2 ^ roundBinade num den

/-- No finite number of quanta, of either sign, is nearer to `t` than the rounded magnitude, and as near
only to one with an even significand. -/
theorem round_nearest {t : ℝ} {num den : Nat} (h : SameHalves t num den) (hd : 0 < den) (s : Bool)
    (low : Nat) :
    |(roundMag num den : ℝ) - t| ≤ |signedReal s (magOfLow low) - t| ∧
      (|signedReal s (magOfLow low) - t| = |(roundMag num den : ℝ) - t| →
        signedReal s (magOfLow low) ≠ (roundMag num den : ℝ) →
          roundSig num den % 2 = 0) := by
  have hnear := (isRounded_roundEven h hd (roundBinade num den)).nearest
  rw [← roundSig] at hnear
  rw [roundMag, Nat.cast_mul, Nat.cast_pow, Nat.cast_ofNat]
  rcases magOfLow_multiple_or_lt low (roundBinade num den) with ⟨c, hc⟩ | ⟨hk, hlt⟩
  · -- a whole multiple of the binade's unit
    have hw : signedReal s (magOfLow low) = (signedMag s c : ℝ) * 2 ^ roundBinade num den := by
      rw [hc, signedMag_cast]
      cases s <;> simp [signedReal, mul_comm]
    rw [hw]
    refine ⟨(hnear _).1, fun he hne => (hnear _).2 he fun hcq => hne ?_⟩
    rw [hcq, Int.cast_natCast]
  · -- below the binade, whose least number is nearer
    have hlow := pow_roundBinade_le h hd (Nat.ne_of_gt hk)
    have hmin := (hnear (2 ^ 52)).1
    rw [Int.cast_pow, Int.cast_ofNat, ← pow_add, abs_of_nonpos (sub_nonpos.2 hlow)] at hmin
    have hlt' : signedReal s (magOfLow low) < 2 ^ (52 + roundBinade num den) := by
      refine (le_abs_self _).trans_lt ?_
      rw [abs_signedReal s (Nat.cast_nonneg _)]
      exact_mod_cast hlt
    rw [abs_of_nonpos (by linarith : signedReal s (magOfLow low) - t ≤ 0)]
    exact ⟨by linarith, fun he => by linarith⟩

/-- The bound of R14's finite results, in quanta. -/
theorem overflowBound_quanta :
    ((2 : ℝ) ^ 1024 - 2 ^ 970) * f64Quanta = (2 ^ 54 - 1) * 2 ^ 2044 := by
  rw [f64Quanta_eq, Nat.cast_pow, Nat.cast_ofNat, sub_mul, sub_mul, ← pow_add, ← pow_add, ← pow_add,
    one_mul]

theorem f64Quanta_real_pos : (0 : ℝ) < f64Quanta := Nat.cast_pos.2 f64Quanta_pos

theorem signedReal_xor (neg s : Bool) (t : ℝ) :
    signedReal (neg ^^ s) t = signedReal neg (signedReal s t) := by
  cases neg <;> cases s <;> simp [signedReal]

/-- The distance of a finite number from a real, in quanta. -/
theorem abs_rat_sub (neg s : Bool) (m : Nat) (t : ℝ) :
    |(((signedMag s m : ℚ) / (f64Quanta : ℚ) : ℚ) : ℝ) - signedReal neg t / f64Quanta| =
      |signedReal (neg ^^ s) m - t| / f64Quanta := by
  have hcast : (((signedMag s m : ℚ) / (f64Quanta : ℚ) : ℚ) : ℝ) = signedReal s m / f64Quanta := by
    rw [← signedMag_cast]
    push_cast
    rfl
  rw [hcast, ← sub_div, abs_div, abs_of_pos f64Quanta_real_pos, abs_sub_signedReal, signedReal_xor]

/-- A magnitude seen through a sign is the number's own. -/
theorem signedMag_eq_of_signedReal_xor {neg s : Bool} {m n : Nat}
    (h : signedReal (neg ^^ s) m = n) : signedMag s m = signedMag neg n := by
  have hreal : signedReal s m = signedReal neg n := by
    rw [← h, signedReal_xor, signedReal_signedReal]
  rw [← signedMag_cast, ← signedMag_cast] at hreal
  exact_mod_cast hreal

/-- The last bit of a rounded number is that of its significand. -/
theorem f64Round_toNat_mod_two (neg : Bool) {num den : Nat}
    (h : roundBinade num den * 2 ^ 52 + roundSig num den < 2047 * 2 ^ 52) :
    (f64Round neg num den).toNat % 2 = roundSig num den % 2 := by
  rw [f64Round_eq, Nat.min_eq_left h.le, f64Pack_toNat neg (by omega)]
  cases neg <;> simp only [if_true, Bool.false_eq_true, if_false] <;> omega

/-- `f64Round` is the nearest binary64, ties to even (R14). -/
theorem nearestEven_round (neg : Bool) {t : ℝ} {num den : Nat} (h : SameHalves t num den) (hd : 0 < den)
    (ht : 0 ≤ t) : NearestEven (signedReal neg t / f64Quanta) (f64Round neg num den) := by
  have hQ := f64Quanta_real_pos
  have hover := overflow_iff h hd
  have hbound : |signedReal neg t / f64Quanta| < 2 ^ 1024 - 2 ^ 970 ↔
      ¬ 2047 * 2 ^ 52 ≤ roundBinade num den * 2 ^ 52 + roundSig num den := by
    rw [hover, not_le, abs_div, abs_signedReal neg ht, abs_of_pos hQ, div_lt_iff₀ hQ,
      overflowBound_quanta]
  unfold NearestEven
  split
  next hlt =>
    have hfin := not_le.1 (hbound.1 hlt)
    refine ⟨_, f64Rat_of_fin (f64Unpack_round neg hfin), fun y w hy => ?_⟩
    obtain ⟨s, m, hu, rfl⟩ := f64Rat_eq_some hy
    obtain ⟨-, -, rfl⟩ := low_of_fin hu
    obtain ⟨hle, heven⟩ := round_nearest h hd (neg ^^ s) (f64Low y)
    rw [← roundMag]
    rw [abs_rat_sub, abs_rat_sub, Bool.xor_self, div_left_inj' hQ.ne', f64Round_toNat_mod_two neg hfin]
    refine ⟨div_le_div_of_nonneg_right hle hQ.le, fun he hne => heven he fun heq => hne ?_⟩
    rw [signedMag_eq_of_signedReal_xor heq]
  next hge =>
    have hover' := not_not.1 (mt hbound.2 hge)
    have hpos : 0 < t := lt_of_lt_of_le (by norm_num) (hover.1 hover')
    rw [f64Round_overflow neg hover']
    cases neg
    · exact Or.inl ⟨div_pos hpos hQ, rfl⟩
    · exact Or.inr ⟨div_neg_of_neg_of_pos (neg_neg_of_pos hpos) hQ, rfl⟩

end Sys2Proof.Machine
end

section
/-!
The operators and comparisons on finite numbers (R14): each is one rounding of the exact result, and what
signs, zeros and comparisons follow.
-/

namespace Sys2Proof.Machine

/-! ### The integer square root -/

theorem isqrtFrom_bounds (k acc n : Nat) (hlow : acc * acc ≤ n)
    (hhigh : n < (acc + 2 ^ k) * (acc + 2 ^ k)) :
    isqrtFrom k acc n * isqrtFrom k acc n ≤ n ∧
      n < (isqrtFrom k acc n + 1) * (isqrtFrom k acc n + 1) := by
  induction k generalizing acc with
  | zero => exact ⟨hlow, by simpa [isqrtFrom] using hhigh⟩
  | succ k ih =>
    rw [isqrtFrom, Nat.one_shiftLeft]
    split
    next h => exact ih _ h (by rwa [Nat.add_assoc, ← Nat.two_mul, ← pow_succ'])
    next h => exact ih _ hlow (not_le.1 h)

theorem isqrt_eq_sqrt (n : Nat) : isqrt n = Nat.sqrt n := by
  have hn : n < 2 ^ (Nat.log2 n / 2 + 1) * 2 ^ (Nat.log2 n / 2 + 1) := by
    rw [← pow_add]
    exact Nat.lt_log2_self.trans_le (Nat.pow_le_pow_right (by decide) (by omega))
  have h := isqrtFrom_bounds (Nat.log2 n / 2 + 1) 0 n (Nat.zero_le _) (by simpa using hn)
  rw [Nat.eq_sqrt]
  exact h

/-- The numerator `fsqrt` rounds: twice the root's integer part, odd when the root has a rest. -/
def sqrtNum (n : Nat) : Nat := 2 * Nat.sqrt n + if Nat.sqrt n * Nat.sqrt n = n then 0 else 1

/-- A quarter of `sqrtNum n` rounds as half the real root of `n` does. -/
theorem sameHalves_sqrtNum (n : Nat) : SameHalves (Real.sqrt n / 2) (sqrtNum n) 4 := by
  have hle := Nat.sqrt_le n
  have hlt := Nat.lt_succ_sqrt n
  intro j
  rw [mul_div_cancel₀ _ two_ne_zero, Real.le_sqrt (Nat.cast_nonneg j) (Nat.cast_nonneg n),
    Real.sqrt_le_left (Nat.cast_nonneg j)]
  have h1 : ((j : ℝ) ^ 2 ≤ n ↔ j ≤ Nat.sqrt n) := by rw [Nat.le_sqrt']; norm_cast
  have h2 : ((n : ℝ) ≤ (j : ℝ) ^ 2 ↔ n ≤ j * j) := by rw [← pow_two]; norm_cast
  rw [h1, h2]
  unfold sqrtNum
  split
  next hsq =>
    refine ⟨by omega, ?_⟩
    conv_lhs => rw [← hsq, Nat.mul_self_le_mul_self_iff]
    omega
  next hsq =>
    refine ⟨by omega, ?_⟩
    have h3 : n ≤ j * j ↔ Nat.sqrt n < j :=
      ⟨fun h => Nat.mul_self_lt_mul_self_iff.1 (by omega),
        fun h => hlt.le.trans (Nat.mul_self_le_mul_self h)⟩
    rw [h3]
    omega

/-! ### Zeros and signs of rounded results -/

@[simp] theorem f64Round_zero (neg : Bool) (den : Nat) : f64Round neg 0 den = f64Pack neg 0 := by
  simp [f64Round_eq, roundBinade, roundSig, roundEven]

@[simp] theorem f64Sign_round (neg : Bool) (num den : Nat) : f64Sign (f64Round neg num den) = neg :=
  f64Sign_pack neg (by omega)

theorem f64Pack_zero (s : Bool) : f64Pack s 0 = if s then fneg f64Zero else f64Zero := by
  cases s <;> decide

theorem signedMag_not (s : Bool) (m : Nat) : signedMag (!s) m = -signedMag s m := by
  cases s <;> simp [signedMag]

theorem signedMag_eq_zero {s : Bool} {m : Nat} : signedMag s m = 0 ↔ m = 0 := by
  cases s <;> simp [signedMag]

theorem signedReal_mul (s t : Bool) (a b : ℝ) :
    signedReal (s ^^ t) (a * b) = signedReal s a * signedReal t b := by
  cases s <;> cases t <;> simp [signedReal]

theorem signedReal_div (s t : Bool) (a b : ℝ) :
    signedReal (s ^^ t) (a / b) = signedReal s a / signedReal t b := by
  cases s <;> cases t <;> simp [signedReal, neg_div, div_neg]

theorem signedReal_mul_const (s : Bool) (a c : ℝ) : signedReal s (a * c) = signedReal s a * c := by
  cases s <;> simp [signedReal]

theorem signedReal_div_const (s : Bool) (a c : ℝ) : signedReal s (a / c) = signedReal s a / c := by
  rw [div_eq_mul_inv, signedReal_mul_const, ← div_eq_mul_inv]

/-- What a pattern is worth, as a real. -/
theorem f64Rat_real {x : F64} {a : ℚ} {s : Bool} {m : Nat} (hx : f64Rat x = some a)
    (hu : f64Unpack x = .fin s m) : (a : ℝ) = signedReal s m / f64Quanta := by
  rw [f64Rat_of_fin hu] at hx
  rw [← Option.some.inj hx, ← signedMag_cast]
  push_cast
  rfl

/-- A pattern worth something, unpacked. -/
theorem exists_fin_of_rat {x : F64} {a : ℚ} (hx : f64Rat x = some a) :
    ∃ s m, f64Unpack x = .fin s m ∧ (a : ℝ) = signedReal s m / f64Quanta ∧
      a = (signedMag s m : ℚ) / f64Quanta := by
  obtain ⟨s, m, hu, ha⟩ := f64Rat_eq_some hx
  exact ⟨s, m, hu, f64Rat_real hx hu, ha⟩

/-! ### The operators on finite numbers -/

section
variable {x y : F64} {s t : Bool} {m n : Nat}

theorem fadd_fin (hx : f64Unpack x = .fin s m) (hy : f64Unpack y = .fin t n) :
    fadd x y =
      if signedMag s m + signedMag t n = 0 then f64Pack (s && t) 0
      else f64Round (decide (signedMag s m + signedMag t n < 0)) (signedMag s m + signedMag t n).natAbs 1 := by
  simp only [fadd, hx, hy]

theorem fmul_fin (hx : f64Unpack x = .fin s m) (hy : f64Unpack y = .fin t n) :
    fmul x y = f64Round (s ^^ t) (m * n) f64Quanta := by
  rw [f64Quanta_eq, ← Nat.one_shiftLeft]
  simp only [fmul, hx, hy]

theorem fdiv_fin (hx : f64Unpack x = .fin s m) (hy : f64Unpack y = .fin t n) (hn : n ≠ 0) :
    fdiv x y = f64Round (s ^^ t) (m * f64Quanta) n := by
  rw [f64Quanta_eq, ← Nat.shiftLeft_eq]
  simp only [fdiv, hx, hy, if_neg hn]

theorem fsqrt_zero (hx : f64Unpack x = .fin s 0) : fsqrt x = x := by
  simp only [fsqrt, hx, if_true]
  exact (eq_zero_of_fin_zero hx).symm

theorem fsqrt_fin (hx : f64Unpack x = .fin false m) :
    fsqrt x = f64Round false (sqrtNum (4 * m * f64Quanta)) 4 := by
  rcases Nat.eq_zero_or_pos m with rfl | hm
  · rw [fsqrt_zero hx, eq_zero_of_fin_zero hx]
    simp [sqrtNum]
  · rw [f64Quanta_eq, ← Nat.shiftLeft_eq]
    simp only [fsqrt, hx, if_neg hm.ne', isqrt_eq_sqrt, sqrtNum, Bool.false_eq_true, if_false]

theorem f64Key_fin (hx : f64Unpack x = .fin s m) : f64Key x = some (signedMag s m) := by
  simp only [f64Key, hx]

end

theorem signedReal_natAbs (i : Int) : signedReal (decide (i < 0)) i.natAbs = i := by
  rw [← signedMag_cast, signedMag_natAbs]

section
variable {x y : F64} {a b : ℚ}

theorem nearestEven_zero (s : Bool) : NearestEven 0 (f64Pack s 0) := by
  have h := nearestEven_round s (sameHalves_div (num := 0) one_pos) (by simp)
  rw [f64Round_zero] at h
  simpa [signedReal] using h

theorem nearestEven_fadd (hx : f64Rat x = some a) (hy : f64Rat y = some b) :
    NearestEven ((a + b : ℚ) : ℝ) (fadd x y) := by
  obtain ⟨s, m, hux, ha, -⟩ := exists_fin_of_rat hx
  obtain ⟨t, n, huy, hb, -⟩ := exists_fin_of_rat hy
  have hsum : ((a + b : ℚ) : ℝ) = ((signedMag s m + signedMag t n : Int) : ℝ) / f64Quanta := by
    push_cast
    rw [ha, hb, signedMag_cast, signedMag_cast, add_div]
  rw [fadd_fin hux huy, hsum]
  split
  next hz =>
    rw [hz, Int.cast_zero, zero_div]
    exact nearestEven_zero _
  next =>
    generalize signedMag s m + signedMag t n = z
    rw [← signedReal_natAbs z]
    simpa using nearestEven_round _ (sameHalves_div (num := z.natAbs) one_pos) (by positivity)

theorem f64Rat_fneg (hx : f64Rat x = some a) : f64Rat (fneg x) = some (-a) := by
  obtain ⟨s, m, hu, rfl⟩ := f64Rat_eq_some hx
  rw [f64Rat_of_fin (f64Unpack_fneg_fin hu), signedMag_not, Int.cast_neg, neg_div]

theorem nearestEven_fsub (hx : f64Rat x = some a) (hy : f64Rat y = some b) :
    NearestEven ((a - b : ℚ) : ℝ) (fsub x y) := by
  rw [sub_eq_add_neg]
  exact nearestEven_fadd hx (f64Rat_fneg hy)

theorem nearestEven_fmul (hx : f64Rat x = some a) (hy : f64Rat y = some b) :
    NearestEven ((a * b : ℚ) : ℝ) (fmul x y) := by
  obtain ⟨s, m, hux, ha, -⟩ := exists_fin_of_rat hx
  obtain ⟨t, n, huy, hb, -⟩ := exists_fin_of_rat hy
  have hprod : ((a * b : ℚ) : ℝ) = signedReal (s ^^ t) ((m * n : Nat) / f64Quanta) / f64Quanta := by
    rw [Rat.cast_mul, ha, hb, Nat.cast_mul, signedReal_div_const, signedReal_mul]
    ring
  rw [fmul_fin hux huy, hprod]
  exact nearestEven_round _ (sameHalves_div f64Quanta_pos) f64Quanta_pos (by positivity)

theorem nearestEven_fdiv (hx : f64Rat x = some a) (hy : f64Rat y = some b) (hb0 : b ≠ 0) :
    NearestEven ((a / b : ℚ) : ℝ) (fdiv x y) := by
  obtain ⟨s, m, hux, ha, -⟩ := exists_fin_of_rat hx
  obtain ⟨t, n, huy, hb, hb'⟩ := exists_fin_of_rat hy
  have hn : n ≠ 0 := by
    rintro rfl
    exact hb0 (by rw [hb', signedMag_eq_zero.2 rfl]; simp)
  have hQ := f64Quanta_real_pos.ne'
  have hquot : ((a / b : ℚ) : ℝ) = signedReal (s ^^ t) ((m * f64Quanta : Nat) / n) / f64Quanta := by
    rw [Rat.cast_div, ha, hb, div_div_div_cancel_right₀ hQ, Nat.cast_mul, signedReal_div,
      signedReal_mul_const, mul_div_right_comm, mul_div_cancel_right₀ _ hQ]
  rw [fdiv_fin hux huy hn, hquot]
  exact nearestEven_round _ (sameHalves_div (Nat.pos_of_ne_zero hn)) (Nat.pos_of_ne_zero hn) (by positivity)

theorem nearestEven_fsqrt (hx : f64Rat x = some a) (h0 : 0 ≤ a) :
    NearestEven (Real.sqrt (a : ℝ)) (fsqrt x) := by
  obtain ⟨s, m, hu, ha, ha'⟩ := exists_fin_of_rat hx
  have hQ := f64Quanta_real_pos
  rcases Nat.eq_zero_or_pos m with rfl | hm
  · rw [fsqrt_zero hu, eq_zero_of_fin_zero hu, ha', signedMag_eq_zero.2 rfl]
    simpa using nearestEven_zero s
  obtain rfl : s = false := by
    by_contra hs
    rw [Bool.eq_true_of_not_eq_false hs] at ha
    have : (a : ℝ) < 0 := by
      rw [ha]
      exact div_neg_of_neg_of_pos (neg_neg_of_pos (Nat.cast_pos.2 hm)) hQ
    exact absurd h0 (not_le.2 (by exact_mod_cast this))
  have hroot : Real.sqrt a = signedReal false (Real.sqrt (4 * m * f64Quanta : Nat) / 2) / f64Quanta := by
    have hfactor : ((4 * m * f64Quanta : Nat) : ℝ) = a * (2 * f64Quanta) ^ 2 := by
      rw [ha]
      push_cast
      simp only [signedReal, Bool.false_eq_true, if_false]
      field_simp
      ring
    rw [hfactor, Real.sqrt_mul' _ (sq_nonneg _), Real.sqrt_sq (by positivity)]
    simp only [signedReal, Bool.false_eq_true, if_false]
    field_simp
  rw [fsqrt_fin hu, hroot]
  exact nearestEven_round false (sameHalves_sqrtNum _) (by decide) (by positivity)

/-! ### Signs and exact zeros -/

theorem f64Sign_of_fin {s : Bool} {m : Nat} (hu : f64Unpack x = .fin s m) : f64Sign x = s :=
  (low_of_fin hu).1

theorem quanta_eq_zero_iff {s : Bool} {m : Nat} (ha : a = (signedMag s m : ℚ) / f64Quanta) :
    a = 0 ↔ m = 0 := by
  rw [ha, div_eq_zero_iff, or_iff_left f64Quanta_ne_zero, Int.cast_eq_zero, signedMag_eq_zero]

theorem f64Sign_fmul (hx : f64Rat x = some a) (hy : f64Rat y = some b) :
    f64Sign (fmul x y) = (f64Sign x ^^ f64Sign y) := by
  obtain ⟨s, m, hux, -⟩ := exists_fin_of_rat hx
  obtain ⟨t, n, huy, -⟩ := exists_fin_of_rat hy
  rw [fmul_fin hux huy, f64Sign_round, f64Sign_of_fin hux, f64Sign_of_fin huy]

theorem f64Sign_fdiv (hx : f64Rat x = some a) (hy : f64Rat y = some b) (hb0 : b ≠ 0) :
    f64Sign (fdiv x y) = (f64Sign x ^^ f64Sign y) := by
  obtain ⟨s, m, hux, -⟩ := exists_fin_of_rat hx
  obtain ⟨t, n, huy, -, hb⟩ := exists_fin_of_rat hy
  rw [fdiv_fin hux huy (mt (quanta_eq_zero_iff hb).2 hb0), f64Sign_round, f64Sign_of_fin hux,
    f64Sign_of_fin huy]

theorem fadd_of_sum_zero (hx : f64Rat x = some a) (hy : f64Rat y = some b) (h : a + b = 0) :
    fadd x y = if f64Sign x && f64Sign y then fneg f64Zero else f64Zero := by
  obtain ⟨s, m, hux, -, ha⟩ := exists_fin_of_rat hx
  obtain ⟨t, n, huy, -, hb⟩ := exists_fin_of_rat hy
  have hz : signedMag s m + signedMag t n = 0 := by
    rw [ha, hb, ← add_div, div_eq_zero_iff, or_iff_left f64Quanta_ne_zero] at h
    exact_mod_cast h
  rw [fadd_fin hux huy, if_pos hz, f64Pack_zero, f64Sign_of_fin hux, f64Sign_of_fin huy]

theorem fsub_of_diff_zero (hx : f64Rat x = some a) (hy : f64Rat y = some b) (h : a - b = 0) :
    fsub x y = if f64Sign x && !f64Sign y then fneg f64Zero else f64Zero := by
  rw [fsub, fadd_of_sum_zero hx (f64Rat_fneg hy) (by rwa [← sub_eq_add_neg]), f64Sign_fneg]

theorem fsqrt_of_zero (hx : f64Rat x = some 0) : fsqrt x = x := by
  obtain ⟨s, m, hu, -, ha⟩ := exists_fin_of_rat hx
  obtain rfl := (quanta_eq_zero_iff ha).1 rfl
  exact fsqrt_zero hu

/-! ### Comparisons -/

/-- The place of a finite number on the number line is its worth in quanta. -/
theorem f64Key_of_rat (hx : f64Rat x = some a) :
    ∃ k : Int, f64Key x = some k ∧ a = (k : ℚ) / f64Quanta := by
  obtain ⟨s, m, hu, -, ha⟩ := exists_fin_of_rat hx
  exact ⟨_, f64Key_fin hu, ha⟩

theorem f64Quanta_rat_pos : (0 : ℚ) < f64Quanta := Nat.cast_pos.2 f64Quanta_pos

theorem flt_iff_lt (hx : f64Rat x = some a) (hy : f64Rat y = some b) : flt x y = true ↔ a < b := by
  obtain ⟨k, hk, rfl⟩ := f64Key_of_rat hx
  obtain ⟨l, hl, rfl⟩ := f64Key_of_rat hy
  rw [flt_eq_of_keys hk hl, decide_eq_true_eq, div_lt_div_iff_of_pos_right f64Quanta_rat_pos, Int.cast_lt]

theorem fle_iff_le (hx : f64Rat x = some a) (hy : f64Rat y = some b) : fle x y = true ↔ a ≤ b := by
  obtain ⟨k, hk, rfl⟩ := f64Key_of_rat hx
  obtain ⟨l, hl, rfl⟩ := f64Key_of_rat hy
  rw [fle_eq_of_keys hk hl, decide_eq_true_eq, div_le_div_iff_of_pos_right f64Quanta_rat_pos, Int.cast_le]

theorem feq_iff_eq (hx : f64Rat x = some a) (hy : f64Rat y = some b) : feq x y = true ↔ a = b := by
  obtain ⟨k, hk, rfl⟩ := f64Key_of_rat hx
  obtain ⟨l, hl, rfl⟩ := f64Key_of_rat hy
  rw [feq_eq_of_keys hk hl, decide_eq_true_eq, div_left_inj' f64Quanta_ne_zero, Int.cast_inj]

end

/-! ### Integers -/

theorem f64Rat_toF64 {i : Int} (h : i.natAbs ≤ 2 ^ 53) : f64Rat (toF64 i) = some (i : ℚ) := by
  have hu := f64Unpack_toF64 h
  rw [← f64Quanta_eq] at hu
  rw [f64Rat_of_units hu, signedMag_natAbs]

end Sys2Proof.Machine
end

section
/-!
NaN and the infinities in every operator and comparison (R14), and the statement of R14's numbers.
-/

namespace Sys2Proof.Machine

/-! ### NaN -/

theorem f64IsNaN_f64NaN : f64IsNaN f64NaN = true := by decide

theorem f64Key_nan {x : F64} (h : f64IsNaN x = true) : f64Key x = none := f64IsNaN_iff_key.1 h

/-- No comparison holds with a NaN on either side. -/
theorem compare_nan {x y : F64} (h : f64IsNaN x = true ∨ f64IsNaN y = true) :
    flt x y = false ∧ fle x y = false ∧ feq x y = false := by
  unfold flt fle feq
  rcases h with h | h <;> rw [f64Key_nan h]
  · exact ⟨rfl, rfl, rfl⟩
  · cases f64Key x <;> exact ⟨rfl, rfl, rfl⟩

/-- Every operator passes a NaN on. -/
theorem arith_nan {x y : F64} (h : f64IsNaN x = true ∨ f64IsNaN y = true) :
    fadd x y = f64NaN ∧ fsub x y = f64NaN ∧ fmul x y = f64NaN ∧ fdiv x y = f64NaN := by
  unfold fsub fadd fmul fdiv
  rcases h with h | h <;> rw [f64IsNaN_iff.1 h]
  · exact ⟨rfl, rfl, rfl, rfl⟩
  · rw [f64IsNaN_iff.1 ((f64IsNaN_fneg y).trans h)]
    cases f64Unpack x <;> exact ⟨rfl, rfl, rfl, rfl⟩

theorem f64Key_zero : f64Key f64Zero = some 0 := by decide

theorem f64Unpack_zero : f64Unpack f64Zero = .fin false 0 := by decide

/-- The root of a NaN and of a number below 0 is a NaN. -/
theorem fsqrt_nan {x : F64} (h : f64IsNaN x = true ∨ flt x f64Zero = true) :
    fsqrt x = f64NaN := by
  rcases h with h | h
  · simp only [fsqrt, f64IsNaN_iff.1 h]
  · obtain ⟨k, hk⟩ : ∃ k, f64Key x = some k := f64Key_of_not_nan (by
      by_contra hn
      rw [(compare_nan (Or.inl (Bool.eq_true_of_not_eq_false hn))).1] at h
      cases h)
    rw [flt_eq_of_keys hk f64Key_zero, decide_eq_true_eq] at h
    unfold f64Key at hk
    unfold fsqrt
    cases hu : f64Unpack x with
    | nan => rfl
    | inf s =>
      rw [hu] at hk
      cases s
      · simp only [signedMag, Bool.false_eq_true, if_false, Option.some.injEq] at hk
        omega
      · rfl
    | fin s m =>
      rw [hu] at hk
      obtain rfl := Option.some.inj hk
      cases s
      · simp only [signedMag, Bool.false_eq_true, if_false] at h
        omega
      · have hm : m ≠ 0 := fun h0 => by simp [signedMag, h0] at h
        simp only [if_neg hm, if_true]

/-! ### Infinities -/

/-- Where the infinities stand on the number line. -/
def infKey : Nat := 1 <<< 2200

theorem f64Key_inf {x : F64} {s : Bool} (hu : f64Unpack x = .inf s) :
    f64Key x = some (signedMag s infKey) := by
  simp only [f64Key, hu, infKey]

theorem f64Key_infOf (s : Bool) : f64Key (f64InfOf s) = some (signedMag s infKey) :=
  f64Key_inf (f64Unpack_infOf s)

theorem infKey_pos : 0 < infKey := by
  unfold infKey
  rw [Nat.one_shiftLeft]
  exact Nat.two_pow_pos _

/-- Every finite number stands between the infinities. -/
theorem quanta_lt_infKey {x : F64} {s : Bool} {m : Nat} (hu : f64Unpack x = .fin s m) : m < infKey := by
  obtain ⟨-, hlow, rfl⟩ := low_of_fin hu
  unfold infKey
  rw [Nat.one_shiftLeft]
  exact (magOfLow_lt (j := 2046) hlow).trans_le (Nat.pow_le_pow_right (by decide) (by decide))

theorem f64Unpack_negZero : f64Unpack (fneg f64Zero) = .fin true 0 := f64Unpack_fneg_fin f64Unpack_zero

section
variable {x : F64} {s' : Bool} {m : Nat}

/-- A finite number is below +∞ and above −∞. -/
theorem compare_fin_inf (hu : f64Unpack x = .fin s' m) (s : Bool) :
    flt x (f64InfOf s) = !s ∧ fle x (f64InfOf s) = !s ∧ feq x (f64InfOf s) = false ∧
      flt (f64InfOf s) x = s ∧ fle (f64InfOf s) x = s ∧ feq (f64InfOf s) x = false := by
  have hk := f64Key_fin hu
  have hi := f64Key_infOf s
  have hb : -(infKey : Int) < signedMag s' m ∧ signedMag s' m < infKey := by
    have := quanta_lt_infKey hu
    cases s' <;> simp only [signedMag, Bool.false_eq_true, if_false, if_true] <;> omega
  rw [flt_eq_of_keys hk hi, fle_eq_of_keys hk hi, feq_eq_of_keys hk hi, flt_eq_of_keys hi hk,
    fle_eq_of_keys hi hk, feq_eq_of_keys hi hk]
  generalize signedMag s' m = k at hb
  cases s <;> simp [signedMag] <;> omega

section
variable {z : F64} {s : Bool}

/-- Sums and quotients of a finite number and an infinity. -/
theorem arith_fin_inf (hu : f64Unpack x = .fin s' m) (hz : f64Unpack z = .inf s) :
    fadd x z = f64InfOf s ∧ fadd z x = f64InfOf s ∧ fdiv x z = f64Pack (s' ^^ s) 0 ∧
      fdiv z x = f64InfOf (s ^^ s') := by
  unfold fadd fdiv
  rw [hu, hz]
  exact ⟨rfl, rfl, rfl, rfl⟩

theorem fmul_fin_inf (hu : f64Unpack x = .fin s' m) (hz : f64Unpack z = .inf s) :
    fmul x z = if m = 0 then f64NaN else f64InfOf (s' ^^ s) := by
  unfold fmul
  rw [hu, hz]

theorem fsub_fin_inf (hu : f64Unpack x = .fin s' m) (hz : f64Unpack z = .inf s) :
    fsub x z = f64InfOf (!s) ∧ fsub z x = f64InfOf s :=
  ⟨(arith_fin_inf hu (by rw [f64Unpack_fneg, hz]; rfl)).1, (arith_fin_inf (f64Unpack_fneg_fin hu) hz).2.1⟩

/-- Sums, products and quotients of two infinities. -/
theorem arith_inf_inf {y : F64} {t : Bool} (hy : f64Unpack y = .inf t) (hz : f64Unpack z = .inf s) :
    fadd z y = (if s = t then f64InfOf s else f64NaN) ∧ fmul z y = f64InfOf (s ^^ t) ∧
      fdiv z y = f64NaN := by
  unfold fadd fmul fdiv
  rw [hy, hz]
  exact ⟨rfl, rfl, rfl⟩

end

/-- Division by a zero. -/
theorem fdiv_fin_zero {y : F64} {t : Bool} (hu : f64Unpack x = .fin s' m) (hy : f64Unpack y = .fin t 0) :
    fdiv x y = if m = 0 then f64NaN else f64InfOf (s' ^^ t) := by
  simp only [fdiv, hu, hy, if_true]

theorem feq_zero (hu : f64Unpack x = .fin s' m) : feq x f64Zero = decide (m = 0) := by
  rw [feq_eq_of_keys (f64Key_fin hu) f64Key_zero]
  exact decide_eq_decide.2 signedMag_eq_zero

theorem f64Pack_xor_zero (s' s : Bool) :
    f64Pack (s' ^^ s) 0 = if s' = s then f64Zero else fneg f64Zero := by
  rw [f64Pack_zero]
  cases s' <;> cases s <;> rfl

end

theorem compare_inf_inf (s t : Bool) :
    flt (f64InfOf s) (f64InfOf t) = (s && !t) ∧ fle (f64InfOf s) (f64InfOf t) = (s || !t) ∧
      feq (f64InfOf s) (f64InfOf t) = decide (s = t) := by
  have hs := f64Key_infOf s
  have ht := f64Key_infOf t
  rw [flt_eq_of_keys hs ht, fle_eq_of_keys hs ht, feq_eq_of_keys hs ht]
  have := infKey_pos
  cases s <;> cases t <;> simp [signedMag] <;> omega

/-! ### Commutativity -/

theorem fadd_comm (x y : F64) : fadd x y = fadd y x := by
  unfold fadd
  cases f64Unpack x with
  | nan => cases f64Unpack y <;> rfl
  | inf s =>
    cases f64Unpack y with
    | inf t => cases s <;> cases t <;> rfl
    | nan => rfl
    | fin => rfl
  | fin s m =>
    cases f64Unpack y with
    | fin t n => simp only [Int.add_comm (signedMag s m), Bool.and_comm s]
    | nan => rfl
    | inf => rfl

theorem fmul_comm (x y : F64) : fmul x y = fmul y x := by
  unfold fmul
  cases f64Unpack x with
  | nan => cases f64Unpack y <;> rfl
  | inf s => cases f64Unpack y <;> simp only [Bool.xor_comm s]
  | fin s m => cases f64Unpack y <;> simp only [Bool.xor_comm s, Nat.mul_comm m]

/-! ### The statement -/

/-- Settles O59: rounding by the nearest-number lemmas, the special values by the operators' equations. -/
theorem floatingPointPrimitives : Obligations.FloatingPointPrimitives := by
  refine ⟨fun x y a b hx hy => ?_, fun i hi => f64Rat_toF64 hi, fun x y h => ?_, fun x h => ?_, ?_,
    fun x s hx => ?_, fun s t => ?_, fun x y => ⟨fadd_comm x y, fmul_comm x y⟩, fun x => ?_⟩
  · exact ⟨nearestEven_fadd hx hy, nearestEven_fsub hx hy, nearestEven_fmul hx hy, nearestEven_fdiv hx hy,
      nearestEven_fsqrt hx, f64Sign_fmul hx hy, f64Sign_fdiv hx hy, fadd_of_sum_zero hx hy,
      fsub_of_diff_zero hx hy, fun h0 => fsqrt_of_zero (h0 ▸ hx), flt_iff_lt hx hy, fle_iff_le hx hy,
      feq_iff_eq hx hy⟩
  · obtain ⟨hlt, hle, heq⟩ := compare_nan h
    obtain ⟨hadd, hsub, hmul, hdiv⟩ := arith_nan h
    rw [hadd, hsub, hmul, hdiv]
    exact ⟨hlt, hle, heq, f64IsNaN_f64NaN, f64IsNaN_f64NaN, f64IsNaN_f64NaN, f64IsNaN_f64NaN⟩
  · rw [fsqrt_nan h, f64IsNaN_f64NaN]
  · simp only [fsqrt, f64Unpack_infOf, Bool.false_eq_true, if_false]
  · obtain ⟨s', m, hu⟩ := f64IsFinite_iff.1 hx
    obtain ⟨hlt, hle, heq, hgt, hge, heq'⟩ := compare_fin_inf hu s
    have hi := f64Unpack_infOf s
    obtain ⟨hadd, -, hdiv, hdiv'⟩ := arith_fin_inf hu hi
    obtain ⟨hsub, hsub'⟩ := fsub_fin_inf hu hi
    rw [f64Sign_of_fin hu, feq_zero hu, hdiv, hdiv', f64Pack_xor_zero, fmul_fin_inf hu hi,
      fdiv_fin_zero hu f64Unpack_zero, fdiv_fin_zero hu f64Unpack_negZero, Bool.xor_false, Bool.xor_true,
      Bool.xor_comm s]
    refine ⟨hlt, hle, heq, hgt, hge, heq', hadd, hsub, hsub', rfl, rfl, fun hm => ?_, fun hm => ?_⟩
    · simp only [if_neg (of_decide_eq_false hm), and_self]
    · simp only [if_pos (of_decide_eq_true hm), f64IsNaN_f64NaN, and_self]
  · obtain ⟨hlt, hle, heq⟩ := compare_inf_inf s t
    have hinf (u v : Bool) := arith_inf_inf (f64Unpack_infOf v) (f64Unpack_infOf u)
    obtain ⟨-, hmul, hdiv⟩ := hinf s t
    obtain ⟨hsame, -, -⟩ := hinf s s
    obtain ⟨hopp, -, -⟩ := hinf s !s
    rw [if_pos rfl] at hsame
    rw [if_neg (by simp)] at hopp
    rw [fsub, fsub, fneg_infOf, fneg_infOf, Bool.not_not, hsame, hopp, hdiv, f64IsNaN_f64NaN]
    exact ⟨hlt, hle, heq, rfl, rfl, rfl, rfl, hmul, rfl⟩
  · exact ⟨f64Sign_fabs x, f64Low_fabs x, f64Sign_fneg x, f64Low_fneg x⟩

end Sys2Proof.Machine
end

section
/-!
`quant` (R17): the clamp decided on the numbers' worth, and truncation as floor or ceiling.
-/

namespace Sys2Proof.Machine

/-- Truncation toward zero is the floor of a number from 0 up and the ceiling of one below. -/
theorem f64Trunc_of_rat {x : F64} {q : ℚ} (hx : f64Rat x = some q) :
    f64Trunc x = if 0 ≤ q then ⌊q⌋ else ⌈q⌉ := by
  obtain ⟨s, m, hu, rfl⟩ := f64Rat_eq_some hx
  have hfloor : ⌊(m : ℚ) / f64Quanta⌋ = ((m / f64Quanta : Nat) : Int) :=
    Rat.floor_natCast_div_natCast m f64Quanta
  have htrunc : f64Trunc x = signedMag s (m / f64Quanta) := by
    rw [f64Quanta_eq, ← Nat.shiftRight_eq_div_pow]
    simp only [f64Trunc, hu]
  have hnonneg : (0 : ℚ) ≤ (m : ℚ) / f64Quanta := by positivity
  rw [htrunc]
  cases s
  · simp only [signedMag, Bool.false_eq_true, if_false, Int.cast_natCast, if_pos hnonneg, hfloor]
  · simp only [signedMag, if_true, Int.cast_neg, Int.cast_natCast, neg_div, Int.ceil_neg, hfloor]
    split
    next h0 =>
      have hz : (m : ℚ) / f64Quanta = 0 := by linarith
      rw [hz] at hfloor ⊢
      rw [← hfloor]
      simp
    next => rfl

theorem quant_of_not_nan {v : F64} (h : f64IsNaN v = false) (ext : Nat) :
    quant ext v =
      if fle v (toF64 (-(ext : Int))) then f64Trunc (toF64 (-(ext : Int)))
      else if fle (toF64 ((ext : Int) - 1)) v then f64Trunc (toF64 ((ext : Int) - 1))
      else f64Trunc v := by
  simp only [quant, clampF, h, Bool.false_eq_true, if_false, apply_ite f64Trunc]

theorem BitDepth.ext_bounds (d : BitDepth) : 1 ≤ d.ext ∧ d.ext ≤ 2 ^ 53 := by
  cases d <;> decide

/-- `quant` of a number that is no NaN, with the bounds as integers. -/
theorem quant_eq {v : F64} (h : f64IsNaN v = false) {ext : Nat} (hext : 1 ≤ ext ∧ ext ≤ 2 ^ 53) :
    quant ext v =
      if fle v (toF64 (-(ext : Int))) then -(ext : Int)
      else if fle (toF64 ((ext : Int) - 1)) v then (ext : Int) - 1
      else f64Trunc v := by
  rw [quant_of_not_nan h, f64Trunc_toF64 (by omega), f64Trunc_toF64 (by omega)]

theorem f64IsNaN_infOf (s : Bool) : f64IsNaN (f64InfOf s) = false := by
  cases s <;> decide

/-- An infinity is clamped to the bound on its side. -/
theorem quant_infOf (s : Bool) {ext : Nat} (hext : 1 ≤ ext ∧ ext ≤ 2 ^ 53) :
    quant ext (f64InfOf s) = if s then -(ext : Int) else (ext : Int) - 1 := by
  obtain ⟨m, hlo, -⟩ := toF64_cases (-(ext : Int))
  obtain ⟨n, hhi, -⟩ := toF64_cases ((ext : Int) - 1)
  obtain ⟨-, -, -, -, hle, -⟩ := compare_fin_inf hlo s
  obtain ⟨-, hge, -⟩ := compare_fin_inf hhi s
  rw [quant_eq (f64IsNaN_infOf s) hext, hle, hge]
  cases s <;> rfl

theorem f64IsNaN_of_rat {v : F64} {q : ℚ} (h : f64Rat v = some q) : f64IsNaN v = false := by
  obtain ⟨s, m, hu, -⟩ := f64Rat_eq_some h
  simp only [f64IsNaN, hu]

/-- `quant` of a finite number, by its worth. -/
theorem quant_of_rat {v : F64} {q : ℚ} (hv : f64Rat v = some q) {ext : Nat}
    (hext : 1 ≤ ext ∧ ext ≤ 2 ^ 53) :
    quant ext v =
      if q ≤ -(ext : ℚ) then -(ext : Int)
      else if (ext : ℚ) - 1 ≤ q then (ext : Int) - 1
      else if 0 ≤ q then ⌊q⌋ else ⌈q⌉ := by
  have hlo := fle_iff_le hv (f64Rat_toF64 (i := -(ext : Int)) (by omega))
  have hhi := fle_iff_le (f64Rat_toF64 (i := (ext : Int) - 1) (by omega)) hv
  push_cast at hlo hhi
  rw [quant_eq (f64IsNaN_of_rat hv) hext, f64Trunc_of_rat hv]
  simp only [hlo, hhi]

/-- Settles O60: each clause is `quant`'s equation for its kind of value. -/
theorem quantRule : Obligations.QuantRule := by
  intro d v
  have hext := d.ext_bounds
  refine ⟨fun h => quant_of_nan h _, ?_, ?_, fun q hq => quant_of_rat hq hext⟩
  · rintro rfl
    exact quant_infOf false hext
  · rintro rfl
    exact quant_infOf true hext

end Sys2Proof.Machine
end

section
/-!
The smoothing coefficient at the extreme times (R601) and LOWPASS at f = 0 (R512, R514, R526).
-/

namespace Sys2Proof.Machine

/-! ### Products and quotients with a zero or an infinity, by unpacked form -/

section
variable {x y : F64} {s t : Bool} {m : Nat}

theorem fmul_fin_zero (hx : f64Unpack x = .fin s m) (hy : f64Unpack y = .fin t 0) :
    fmul x y = f64Pack (s ^^ t) 0 := by
  rw [fmul_fin hx hy, Nat.mul_zero, f64Round_zero]

theorem fdiv_zero_fin (hx : f64Unpack x = .fin s 0) (hy : f64Unpack y = .fin t m) (hm : m ≠ 0) :
    fdiv x y = f64Pack (s ^^ t) 0 := by
  rw [fdiv_fin hx hy hm, Nat.zero_mul, f64Round_zero]

end

theorem f64Pack_false_zero : f64Pack false 0 = f64Zero := by decide

theorem f64InfOf_false : f64InfOf false = f64Inf := by decide

theorem f64Unpack_inf : f64Unpack f64Inf = .inf false := f64InfOf_false ▸ f64Unpack_infOf false

/-- A rate of at least 1 converts to a positive number. -/
theorem f64Unpack_rate {rate : Nat} (h : 1 ≤ rate) :
    ∃ m, f64Unpack (toF64 (rate : Int)) = .fin false m ∧ m ≠ 0 := by
  obtain ⟨m, hu, hm⟩ := toF64_cases (rate : Int)
  rw [decide_eq_false (by omega)] at hu
  exact ⟨m, hu, (hm (by omega)).ne'⟩

/-! ### The special values of LIBM (R16) -/

@[simp] theorem libmExp_negInf : libmExp (f64InfOf true) = f64Zero := if_pos rfl

@[simp] theorem libmExp_zero : libmExp f64Zero = f64One := by
  rw [libmExp, if_neg (by decide), if_pos (Or.inl rfl)]

@[simp] theorem libmExp_negZero : libmExp (fneg f64Zero) = f64One := by
  rw [libmExp, if_neg (by decide), if_pos (Or.inr rfl)]

@[simp] theorem libmLog10_zero : libmLog10 f64Zero = f64InfOf true := if_pos rfl

@[simp] theorem libmLog10_one : libmLog10 f64One = f64Zero := by
  rw [libmLog10, if_neg (by decide), if_pos rfl]

@[simp] theorem libmPow10_zero : libmPow10 f64Zero = f64One := if_pos rfl

@[simp] theorem libmSin_zero : libmSin f64Zero = f64Zero := if_pos rfl

@[simp] theorem libmCos_zero : libmCos f64Zero = f64One := if_pos rfl

@[simp] theorem libmTan_zero : libmTan f64Zero = f64Zero := if_pos rfl

/-! ### The smoothing coefficient at the extreme times (R601) -/

/-- fs · 0 / 1000 is +0, −1 over it −∞, and exp of that +0. -/
theorem coefOf_zero {fs : F64} {m : Nat} (hfs : f64Unpack fs = .fin false m) :
    coefOf fs f64Zero = f64Zero := by
  have hprod : fmul fs f64Zero = f64Zero := by
    rw [fmul_fin_zero hfs f64Unpack_zero]
    exact f64Pack_false_zero
  rw [coefOf, hprod, show fdiv f64NegOne (fdiv f64Zero f64Thousand) = f64InfOf true by decide +kernel,
    libmExp_negInf]

/-- fs · ∞ / 1000 is +∞, −1 over it −0, and exp of that 1. -/
theorem coefOf_inf {fs : F64} {m : Nat} (hfs : f64Unpack fs = .fin false m) (hm : m ≠ 0) :
    coefOf fs f64Inf = f64One := by
  have hprod : fmul fs f64Inf = f64Inf := by
    rw [fmul_fin_inf hfs f64Unpack_inf, if_neg hm]
    exact f64InfOf_false
  rw [coefOf, hprod, show fdiv f64NegOne (fdiv f64Inf f64Thousand) = fneg f64Zero by decide +kernel,
    libmExp_negZero]

/-! ### LOWPASS at f = 0 (R512, R514) -/

theorem designOmega_zero {fs : F64} {m : Nat} (hfs : f64Unpack fs = .fin false m) (hm : m ≠ 0) :
    designOmega fs f64Zero = f64Zero := by
  rw [designOmega, show fmul (fmul f64Two f64Pi) f64Zero = f64Zero by decide +kernel,
    fdiv_zero_fin f64Unpack_zero hfs hm]
  exact f64Pack_false_zero

/-- A number of at least one quantum does not round to 0. -/
theorem roundSig_pos {num den : Nat} (h : 1 ≤ num / den) : 0 < roundSig num den := by
  by_cases hk : roundBinade num den = 0
  · rw [roundSig, hk, Nat.shiftLeft_zero]
    exact le_roundEven h
  · exact (Nat.two_pow_pos 52).trans_le (le_roundSig hk)

/-- A rounding of at least one quantum is an infinity or a number other than 0. -/
theorem f64Unpack_round_of_pos (neg : Bool) {num den : Nat} (h : 1 ≤ num / den) :
    f64Unpack (f64Round neg num den) = .inf neg ∨
      ∃ m, f64Unpack (f64Round neg num den) = .fin neg m ∧ m ≠ 0 := by
  by_cases hover : 2047 * 2 ^ 52 ≤ roundBinade num den * 2 ^ 52 + roundSig num den
  · left
    rw [f64Round_overflow neg hover, f64Unpack_infOf]
  · right
    exact ⟨_, f64Unpack_round neg (not_le.1 hover),
      (Nat.mul_pos (roundSig_pos h) (Nat.two_pow_pos _)).ne'⟩

theorem f64Unpack_two : f64Unpack f64Two = .fin false (2 * f64Quanta) := by
  rw [f64Quanta_eq]
  decide +kernel

theorem f64Unpack_of_pos {q : F64} (hfin : f64IsFinite q = true) (hpos : flt f64Zero q = true) :
    ∃ m, f64Unpack q = .fin false m ∧ m ≠ 0 := by
  obtain ⟨s, m, hu⟩ := f64IsFinite_iff.1 hfin
  rw [flt_eq_of_keys f64Key_zero (f64Key_fin hu), decide_eq_true_eq] at hpos
  cases s
  · exact ⟨m, hu, fun h0 => by simp [signedMag, h0] at hpos⟩
  · simp only [signedMag, if_true] at hpos
    omega

/-- 0 / (2q) is +0 for every q of R532, even where 2q overflows. -/
theorem designAlpha_zero {q : F64} (hfin : f64IsFinite q = true) (hpos : flt f64Zero q = true) :
    designAlpha f64Zero q = f64Zero := by
  obtain ⟨m, hu, hm⟩ := f64Unpack_of_pos hfin hpos
  have hnum : 1 ≤ 2 * f64Quanta * m / f64Quanta := by
    rw [Nat.mul_right_comm, Nat.mul_div_cancel _ f64Quanta_pos]
    omega
  rw [designAlpha, ← f64Pack_false_zero]
  rcases f64Unpack_round_of_pos false hnum with hinf | ⟨n, hn, hn0⟩
  · rw [fmul_fin f64Unpack_two hu]
    exact (arith_fin_inf f64Unpack_zero hinf).2.2.1
  · rw [fmul_fin f64Unpack_two hu]
    exact fdiv_zero_fin f64Unpack_zero hn hn0

/-- With cosine 1 and alpha 0 the numerator vanishes and the denominator is (1 − z⁻¹)². -/
theorem designLowpass_one_zero :
    designLowpass f64One f64Zero =
      { b0 := f64Zero, b1 := f64Zero, b2 := f64Zero, a1 := f64NegTwo, a2 := f64One } := by
  decide +kernel

theorem design_lowpass_zero {fs q : F64} {m : Nat} (hfs : f64Unpack fs = .fin false m) (hm : m ≠ 0)
    (hfin : f64IsFinite q = true) (hpos : flt f64Zero q = true) (g : F64) :
    design .lowpass fs f64Zero q g =
      { b0 := f64Zero, b1 := f64Zero, b2 := f64Zero, a1 := f64NegTwo, a2 := f64One } := by
  simp only [design, designOmega_zero hfs hm, libmSin_zero, libmCos_zero, designAlpha_zero hfin hpos,
    designLowpass_one_zero]

/-- Settles O35: the formula is the definition, the special values are `libm…`'s own, and a rate converts
to a positive number, for which the coefficients follow. -/
theorem coefficientsAndLibmValues : Obligations.CoefficientsAndLibmValues := by
  refine ⟨fun fs ms => rfl, ⟨libmExp_negInf, libmExp_negZero, libmExp_zero, libmLog10_zero,
    libmLog10_one, libmPow10_zero, libmSin_zero, libmCos_zero, libmTan_zero⟩, fun rate hrate _ => ?_⟩
  obtain ⟨m, hfs, hm⟩ := f64Unpack_rate hrate
  exact ⟨fun q g hfin hpos => design_lowpass_zero hfs hm hfin hpos g, coefOf_zero hfs, coefOf_inf hfs hm⟩

end Sys2Proof.Machine
end

section
/-!
What every command can do, said once: the registers each setter writes (`Setting`), the ends a command can
have (`Effect`), and the two inversions `exec_effect` and `step_cases`, from which every statement about
all commands follows by cases.
-/

namespace Sys2Proof.Machine

/-! ### The registers a setter writes -/

/-- An accepted setter: what it writes on `s` before its event and its completion, and the value its event
shows. Each case carries the operand check that let the command through. -/
inductive Setting (s : State) : Instr → State → Word → Prop
  | bitdepth {v b} (hidle : s.phase = .idle) (hv : bitdepthOperand v = .ok b) :
      Setting s (.ctlSetBitdepth v) { s with geo := { s.geo with bitdepth := b } } v
  | endian {v b} (hidle : s.phase = .idle) (hv : endianOperand v = .ok b) :
      Setting s (.ctlSetEndian v) { s with geo := { s.geo with endian := b } } v
  | rate {v r c} (hv : rateOperand v s.bq.freq = .ok r)
      (hc : checkedDesign s.bq.type (toF64 (r.toNat : Int)) s.bq.freq s.bq.q s.bq.gain = .ok c) :
      Setting s (.ctlSetRate v)
        { s with
          geo := { s.geo with rate := r }
          bq := { s.bq with coeffs := c }
          cmp :=
            { s.cmp with
              attackC := coefOf (toF64 (r.toNat : Int)) s.cmp.attackMs
              releaseC := coefOf (toF64 (r.toNat : Int)) s.cmp.releaseMs } } r
  | channels {v n} (hidle : s.phase = .idle) (hv : channelsOperand v = .ok n) :
      Setting s (.ctlSetChannels v) { s with geo := { s.geo with channels := n } } n
  | bqType {v t c} (hv : filterTypeOperand v = .ok t)
      (hc : checkedDesign t s.geo.rateF s.bq.freq s.bq.q s.bq.gain = .ok c) :
      Setting s (.bqSetType v) { s with bq := { s.bq with type := t, coeffs := c } } v
  | bqFreq {v f c} (hv : freqOperand v s.geo.rateF = .ok f)
      (hc : checkedDesign s.bq.type s.geo.rateF f s.bq.q s.bq.gain = .ok c) :
      Setting s (.bqSetFreq v) { s with bq := { s.bq with freq := f, coeffs := c } } f
  | bqQ {v q c} (hv : qOperand v = .ok q)
      (hc : checkedDesign s.bq.type s.geo.rateF s.bq.freq q s.bq.gain = .ok c) :
      Setting s (.bqSetQ v) { s with bq := { s.bq with q := q, coeffs := c } } q
  | bqGain {v g c} (hv : gainOperand v = .ok g)
      (hc : checkedDesign s.bq.type s.geo.rateF s.bq.freq s.bq.q g = .ok c) :
      Setting s (.bqSetGain v) { s with bq := { s.bq with gain := g, coeffs := c } } g
  | bqEnable : Setting s .bqEnable { s with bq := { s.bq with en := true } } 1
  | bqDisable : Setting s .bqDisable { s with bq := { s.bq with en := false } } 0
  | threshold {v x} (hv : clampedOperand v f64NegHundred f64Zero = .ok x) :
      Setting s (.cmpSetThreshold v) { s with cmp := { s.cmp with threshold := x } } x
  | ratio {v x} (hv : clampedOperand v f64One f64Inf = .ok x) :
      Setting s (.cmpSetRatio v) { s with cmp := { s.cmp with ratio := x } } x
  | attack {v x} (hv : clampedOperand v f64Zero f64Inf = .ok x) :
      Setting s (.cmpSetAttack v)
        { s with cmp := { s.cmp with attackMs := x, attackC := coefOf s.geo.rateF x } } x
  | release {v x} (hv : clampedOperand v f64Zero f64Inf = .ok x) :
      Setting s (.cmpSetRelease v)
        { s with cmp := { s.cmp with releaseMs := x, releaseC := coefOf s.geo.rateF x } } x
  | makeup {v x} (hv : clampedOperand v f64NegTwenty f64Twenty = .ok x) :
      Setting s (.cmpSetMakeup v) { s with cmp := { s.cmp with makeup := x } } x
  | knee {v x} (hv : clampedOperand v f64Zero f64Twenty = .ok x) :
      Setting s (.cmpSetKnee v) { s with cmp := { s.cmp with knee := x } } x
  | cmpEnable : Setting s .cmpEnable { s with cmp := { s.cmp with en := true } } 1
  | cmpDisable : Setting s .cmpDisable { s with cmp := { s.cmp with en := false } } 0
  | room {v x} (hv : clampedOperand v f64Zero f64One = .ok x) :
      Setting s (.rvbSetRoom v) { s with rvb := { s.rvb with room := x } } x
  | damping {v x} (hv : clampedOperand v f64Zero f64One = .ok x) :
      Setting s (.rvbSetDamping v) { s with rvb := { s.rvb with damping := x } } x
  | wet {v x} (hv : clampedOperand v f64Zero f64One = .ok x) :
      Setting s (.rvbSetWet v) { s with rvb := { s.rvb with wet := x } } x
  | dry {v x} (hv : clampedOperand v f64Zero f64One = .ok x) :
      Setting s (.rvbSetDry v) { s with rvb := { s.rvb with dry := x } } x
  | rvbEnable : Setting s .rvbEnable { s with rvb := { s.rvb with en := true } } 1
  | rvbDisable : Setting s .rvbDisable { s with rvb := { s.rvb with en := false } } 0
  | volume {v x} (hv : volumeOperand v = .ok x) :
      Setting s (.volSetVolume v)
        { s with vol := { s.vol with volume := x, gain := fdiv x f64Hundred } } x
  | volEnable : Setting s .volEnable { s with vol := { s.vol with en := true } } 1
  | volDisable : Setting s .volDisable { s with vol := { s.vol with en := false } } 0
  | duration {v x} (hv : durationOperand v = .ok x) :
      Setting s (.seekSetDuration v) { s with seek := { s.seek with totalMs := x } } x

/-! ### The ends of a command -/

/-- Whether a command can end in an error once it is decoded. -/
def mayFail : Instr → Bool
  | .ctlNop | .ctlCreate | .ctlDestroy | .ctlStreamError _ | .ctlPopEvent | .ctlAckErr | .ctlReset
  | .bqEnable | .bqDisable | .cmpEnable | .cmpDisable | .rvbEnable | .rvbDisable | .volEnable
  | .volDisable => false
  | _ => true

/-- The time a SEEK resolves to (R911, R931). -/
def State.seekTimeOf (s : State) (v : F64) : F64 := resolve s.seek.totalMs v

/-- The position a SEEK asks for (R912, R931). -/
def State.seekGoal (s : State) (v : F64) : Word :=
  BitVec.ofNat 64 (seekTarget s.geo.chans (seekFrames (seekTime s.geo.rateF (s.seekTimeOf v))))

/-- The event of a SEEK that moves (R1010). -/
def State.seekEvent (s : State) (v : F64) : Event :=
  .seek (s.seekTimeOf v) (s.seekGoal v) (BitVec.ofNat 64 ((s.seekGoal v).toNat * s.geo.byteWidth))

/-- Every end a decoded command can have on `s`. -/
inductive Effect (s : State) : Instr → State → Prop
  | rejected {i e} (hi : mayFail i = true) (he : e ≠ .ok) : Effect s i (s.rejected e)
  | accepted {i u addr value} (haddr : setterAddress i = some addr) (hset : Setting s i u value) :
      Effect s i (u.reconfigured addr value)
  | nop : Effect s .ctlNop s.completed
  | create : Effect s .ctlCreate s.teardown.instantiate.completed
  | destroy : Effect s .ctlDestroy s.teardown.completed
  | push {payload} (hact : s.phase = .active) :
      Effect s (.ctlPush payload) (pushChunk payload s).completed
  | finish (hact : s.phase = .active) : Effect s .ctlEnd (flushLeftover s).teardown.completed
  | errorWhenIdle {kind} (hidle : s.phase = .idle) : Effect s (.ctlStreamError kind) s.completed
  | closed (hact : s.phase = .active) :
      Effect s (.ctlStreamError .prematureClose) s.teardown.completed
  | ioFailure (hact : s.phase = .active) :
      Effect s (.ctlStreamError .ioFailure) (s.teardown.post (.error 1)).completed
  | readReg {a v} (hv : s.readReg a = some v) :
      Effect s (.ctlReadReg a) ({ s with res0 := v } : State).completed
  | popEmpty (hq : s.evq = []) : Effect s .ctlPopEvent (s.withResults (0, 0, 0, 0)).completed
  | pop {ev evs} (hq : s.evq = ev :: evs) :
      Effect s .ctlPopEvent (({ s with evq := evs } : State).withResults ev.words).completed
  | ackErr : Effect s .ctlAckErr s.ackErr.completed
  | reset : Effect s .ctlReset s.softReset.completed
  | seekUnset {v} (hact : s.phase = .active) (hd : feq s.seek.totalMs f64Zero = true) :
      Effect s (.seekSeek v) ({ s with res0 := f64Zero } : State).completed
  | seekStays {v} (hact : s.phase = .active) (hd : feq s.seek.totalMs f64Zero = false)
      (hgoal : s.seekGoal v = s.seek.continuesAt) :
      Effect s (.seekSeek v) ({ s with res0 := s.seekTimeOf v } : State).completed
  | seekMoves {v} (hact : s.phase = .active) (hd : feq s.seek.totalMs f64Zero = false)
      (hgoal : s.seekGoal v ≠ s.seek.continuesAt) :
      Effect s (.seekSeek v)
        (({ s with res0 := s.seekTimeOf v, seek := s.seek.movedTo (s.seekGoal v) } : State).post
          (s.seekEvent v)).completed

/-! ### The shapes the commands' meanings are made of -/

theorem eq_of_succeed {u t : State} (h : succeed u = .next t) : u.completed = t := by
  rw [succeed_eq] at h
  exact Host.Outcome.next.inj h

section
variable {i : Instr} {s t : State}

theorem effect_of_raise {e : ErrCode} (hi : mayFail i = true) (he : e ≠ .ok)
    (h : raiseErr e s = .next t) : Effect s i t := by
  rw [raiseErr_eq he] at h
  exact Host.Outcome.next.inj h ▸ .rejected hi he

theorem effect_of_setting {u : State} {addr : BitVec 16} {value : Word}
    (hset : Setting s i u value) (haddr : setterAddress i = some addr)
    (h : succeedReconfig addr value u = .next t) : Effect s i t := by
  rw [succeedReconfig_eq] at h
  exact Host.Outcome.next.inj h ▸ .accepted haddr hset

end

/-! ### The inversion of `exec` -/

theorem streamError_effect {kind : StreamErrorKind} {s t : State}
    (h : execCtlStreamError kind s = .next t) : Effect s (.ctlStreamError kind) t := by
  unfold execCtlStreamError at h
  cases hp : s.phase with
  | idle =>
    rw [hp] at h
    exact eq_of_succeed h ▸ .errorWhenIdle hp
  | active =>
    rw [hp] at h
    cases kind with
    | prematureClose => exact eq_of_succeed h ▸ .closed hp
    | ioFailure => exact eq_of_succeed h ▸ .ioFailure hp

theorem seekSeek_effect {v : F64} {s t : State} (h : execSeekSeek v s = .next t) :
    Effect s (.seekSeek v) t := by
  unfold execSeekSeek at h
  split at h
  next => exact effect_of_raise rfl (by decide) h
  next hact =>
    split at h
    next => exact effect_of_raise rfl (by decide) h
    next =>
      split at h
      next hd => exact eq_of_succeed h ▸ .seekUnset hact hd
      next hd =>
        have hd := eq_false_of_ne_true hd
        have h : seekTo (s.seekTimeOf v) (s.seekGoal v) { s with res0 := s.seekTimeOf v } = .next t := h
        unfold seekTo at h
        split at h
        next hgoal => exact eq_of_succeed h ▸ .seekStays hact hd hgoal
        next hgoal => exact eq_of_succeed h ▸ .seekMoves hact hd hgoal

/-- Whatever a command does is one of its ends. -/
theorem exec_effect {i : Instr} {s t : State} (h : exec i s = .next t) : Effect s i t := by
  cases i with
  | ctlNop => exact eq_of_succeed h ▸ .nop
  | ctlCreate => exact eq_of_succeed h ▸ .create
  | ctlDestroy => exact eq_of_succeed h ▸ .destroy
  | ctlPush payload =>
    simp only [exec, execCtlPush] at h
    split at h
    next => exact effect_of_raise rfl (by decide) h
    next hact => exact eq_of_succeed h ▸ .push hact
  | ctlEnd =>
    simp only [exec, execCtlEnd] at h
    split at h
    next => exact effect_of_raise rfl (by decide) h
    next hact => exact eq_of_succeed h ▸ .finish hact
  | ctlStreamError kind => exact streamError_effect h
  | ctlReadReg addr =>
    simp only [exec, execCtlReadReg] at h
    split at h
    next => exact effect_of_raise rfl (by decide) h
    next hv => exact eq_of_succeed h ▸ .readReg hv
  | ctlPopEvent =>
    simp only [exec, execCtlPopEvent] at h
    split at h
    next hq => exact eq_of_succeed h ▸ .popEmpty hq
    next hq => exact eq_of_succeed h ▸ .pop hq
  | ctlAckErr => exact eq_of_succeed h ▸ .ackErr
  | ctlSetBitdepth v =>
    simp only [exec, execCtlSetBitdepth] at h
    split at h
    next => exact effect_of_raise rfl (by decide) h
    next hidle =>
      split at h
      next he => exact effect_of_raise rfl (by simp [bitdepthOperand_eq_error.1 he]) h
      next hv => exact effect_of_setting (.bitdepth hidle hv) rfl h
  | ctlSetEndian v =>
    simp only [exec, execCtlSetEndian] at h
    split at h
    next => exact effect_of_raise rfl (by decide) h
    next hidle =>
      split at h
      next he => exact effect_of_raise rfl (by simp [endianOperand_eq_error.1 he]) h
      next hv => exact effect_of_setting (.endian hidle hv) rfl h
  | ctlSetRate v =>
    simp only [exec, execCtlSetRate] at h
    split at h
    next he => exact effect_of_raise rfl (rateOperand_error_ne_ok he) h
    next hv =>
      split at h
      next hc => exact effect_of_raise rfl (by simp [checkedDesign_eq_error.1 hc]) h
      next hc => exact effect_of_setting (.rate hv hc) rfl h
  | ctlSetChannels v =>
    simp only [exec, execCtlSetChannels] at h
    split at h
    next => exact effect_of_raise rfl (by decide) h
    next hidle =>
      split at h
      next he => exact effect_of_raise rfl (by simp [channelsOperand_eq_error he]) h
      next hv => exact effect_of_setting (.channels hidle hv) rfl h
  | ctlReset => exact eq_of_succeed h ▸ .reset
  | bqSetType v =>
    simp only [exec, execBqSetType] at h
    split at h
    next he => exact effect_of_raise rfl (by simp [filterTypeOperand_eq_error he]) h
    next hv =>
      split at h
      next hc => exact effect_of_raise rfl (by simp [checkedDesign_eq_error.1 hc]) h
      next hc => exact effect_of_setting (.bqType hv hc) rfl h
  | bqSetFreq v =>
    simp only [exec, execBqSetFreq] at h
    split at h
    next he => exact effect_of_raise rfl (by simp [freqOperand_eq_error he]) h
    next hv =>
      split at h
      next hc => exact effect_of_raise rfl (by simp [checkedDesign_eq_error.1 hc]) h
      next hc => exact effect_of_setting (.bqFreq hv hc) rfl h
  | bqSetQ v =>
    simp only [exec, execBqSetQ] at h
    split at h
    next he => exact effect_of_raise rfl (by simp [qOperand_eq_error he]) h
    next hv =>
      split at h
      next hc => exact effect_of_raise rfl (by simp [checkedDesign_eq_error.1 hc]) h
      next hc => exact effect_of_setting (.bqQ hv hc) rfl h
  | bqSetGain v =>
    simp only [exec, execBqSetGain] at h
    split at h
    next he => exact effect_of_raise rfl (by simp [gainOperand_eq_error he]) h
    next hv =>
      split at h
      next hc => exact effect_of_raise rfl (by simp [checkedDesign_eq_error.1 hc]) h
      next hc => exact effect_of_setting (.bqGain hv hc) rfl h
  | bqEnable | bqDisable | cmpEnable | cmpDisable | rvbEnable | rvbDisable | volEnable
  | volDisable => exact effect_of_setting (by constructor) rfl h
  | cmpSetThreshold v | cmpSetRatio v | cmpSetAttack v | cmpSetRelease v | cmpSetMakeup v
  | cmpSetKnee v | rvbSetRoom v | rvbSetDamping v | rvbSetWet v | rvbSetDry v =>
    simp only [exec, execCmpSetThreshold, execCmpSetRatio, execCmpSetAttack, execCmpSetRelease,
      execCmpSetMakeup, execCmpSetKnee, execRvbSetRoom, execRvbSetDamping, execRvbSetWet,
      execRvbSetDry] at h
    split at h
    next he => exact effect_of_raise rfl (by simp [clampedOperand_eq_error.1 he]) h
    next hv => exact effect_of_setting (by constructor; exact hv) rfl h
  | volSetVolume v =>
    simp only [exec, execVolSetVolume] at h
    split at h
    next he => exact effect_of_raise rfl (by simp [volumeOperand_eq_error he]) h
    next hv => exact effect_of_setting (.volume hv) rfl h
  | seekSetDuration v =>
    simp only [exec, execSeekSetDuration] at h
    split at h
    next he => exact effect_of_raise rfl (by simp [durationOperand_eq_error he]) h
    next hv => exact effect_of_setting (.duration hv) rfl h
  | seekSeek v => exact seekSeek_effect h

/-! ### The inversion of `step` -/

/-- A step takes a whole command off the port, and rejects it as illegal or runs it. -/
theorem step_cases {s t : State} (h : step s = .next t) :
    ∃ c rest, takeCommand s.port = some (c, rest) ∧
      ((∃ e, decodeCommand c = .error e ∧
          t = ({ s with port := rest } : State).rejected .illegalCommand) ∨
        ∃ i, decodeCommand c = .ok i ∧ Effect { s with port := rest } i t) := by
  unfold step at h
  split at h
  next => split at h <;> cases h
  next c rest htake =>
    refine ⟨c, rest, htake, ?_⟩
    split at h
    next e hdec =>
      rw [raiseErr_eq (by decide)] at h
      exact .inl ⟨e, hdec, (Host.Outcome.next.inj h).symm⟩
    next i hdec => exact .inr ⟨i, hdec, exec_effect h⟩

/-- An invariant that does not read the port, and that rejections and the effects of commands keep, is
kept by every step. -/
theorem step_keeps {P : State → Prop} (hport : ∀ s rest, P s → P { s with port := rest })
    (hrej : ∀ s e, e ≠ .ok → P s → P (s.rejected e))
    (heff : ∀ i s t, Effect s i t → P s → P t) {s t : State} (hs : P s) (h : step s = .next t) :
    P t := by
  obtain ⟨c, rest, -, ⟨e, -, rfl⟩ | ⟨i, -, heffect⟩⟩ := step_cases h
  · exact hrej _ _ (by decide) (hport s rest hs)
  · exact heff i _ t heffect (hport s rest hs)

end Sys2Proof.Machine
end

section
/-!
Which fields the ends of a command change: the parameters and the running state as two disjoint parts, what
a setter keeps, what PUSH and END keep; then the statements about the control registers, field by field.
-/

namespace Sys2Proof.Machine

/-! ### The two parts of the state -/

/-- The parameters and the registers derived from them alone: everything else at its reset value. -/
def State.parameters (s : State) : State :=
  { State.reset with
    geo := s.geo, bq := s.bq.cleared, cmp := s.cmp.cleared, rvb := s.rvb.allocated 0, vol := s.vol
    seek := s.seek.cleared }

/-- Everything but the parameters and the registers derived from them, which are at their reset
values. -/
def State.running (s : State) : State :=
  { s with
    geo := State.reset.geo
    bq := { State.reset.bq with hist := s.bq.hist }
    cmp := { State.reset.cmp with env := s.cmp.env, gr := s.cmp.gr }
    rvb := { State.reset.rvb with lineLen := s.rvb.lineLen, cursor := s.rvb.cursor, line := s.rvb.line }
    vol := State.reset.vol
    seek := { s.seek with totalMs := State.reset.seek.totalMs } }

/-- A setter writes parameters alone. -/
theorem Setting.running_eq {s u : State} {i : Instr} {v : Word} (h : Setting s i u v) :
    u.running = s.running := by
  cases h <;> rfl

/-- The geometry but the rate is set in IDLE alone (R420, R421, R423). -/
theorem Setting.locked {s u : State} {i : Instr} {v : Word} (h : Setting s i u v)
    (hact : s.phase = .active) :
    u.geo.bitdepth = s.geo.bitdepth ∧ u.geo.endian = s.geo.endian ∧
      u.geo.channels = s.geo.channels := by
  cases h with
  | bitdepth hidle => rw [hidle] at hact; cases hact
  | endian hidle => rw [hidle] at hact; cases hact
  | channels hidle => rw [hidle] at hact; cases hact
  | _ => exact ⟨rfl, rfl, rfl⟩

/-! ### `State.completed` and `State.rejected`, field by field -/

@[simp] theorem State.completed_phase (s : State) : s.completed.phase = s.phase := rfl
@[simp] theorem State.completed_lastErr (s : State) : s.completed.lastErr = .ok := rfl
@[simp] theorem State.completed_errSticky (s : State) : s.completed.errSticky = s.errSticky := rfl
@[simp] theorem State.completed_evq (s : State) : s.completed.evq = s.evq := rfl
@[simp] theorem State.completed_res0 (s : State) : s.completed.res0 = s.res0 := rfl
@[simp] theorem State.completed_res1 (s : State) : s.completed.res1 = s.res1 := rfl
@[simp] theorem State.completed_res2 (s : State) : s.completed.res2 = s.res2 := rfl
@[simp] theorem State.completed_res3 (s : State) : s.completed.res3 = s.res3 := rfl
@[simp] theorem State.completed_out (s : State) : s.completed.out = s.out := rfl
@[simp] theorem State.completed_geo (s : State) : s.completed.geo = s.geo := rfl

@[simp] theorem State.rejected_phase (s : State) (e : ErrCode) : (s.rejected e).phase = s.phase := rfl
@[simp] theorem State.rejected_lastErr (s : State) (e : ErrCode) : (s.rejected e).lastErr = e := rfl
@[simp] theorem State.rejected_errSticky (s : State) (e : ErrCode) :
    (s.rejected e).errSticky = true := rfl
@[simp] theorem State.rejected_out (s : State) (e : ErrCode) : (s.rejected e).out = s.out := rfl

section
variable {s u : State} {i : Instr} {v : Word}

/-! ### An accepted setter, field by field -/

theorem Setting.phase_eq (h : Setting s i u v) : u.phase = s.phase :=
  (congrArg State.phase h.running_eq :)
theorem Setting.errSticky_eq (h : Setting s i u v) : u.errSticky = s.errSticky :=
  (congrArg State.errSticky h.running_eq :)
theorem Setting.evq_eq (h : Setting s i u v) : u.evq = s.evq :=
  (congrArg State.evq h.running_eq :)
theorem Setting.res0_eq (h : Setting s i u v) : u.res0 = s.res0 :=
  (congrArg State.res0 h.running_eq :)
theorem Setting.res1_eq (h : Setting s i u v) : u.res1 = s.res1 :=
  (congrArg State.res1 h.running_eq :)
theorem Setting.res2_eq (h : Setting s i u v) : u.res2 = s.res2 :=
  (congrArg State.res2 h.running_eq :)
theorem Setting.res3_eq (h : Setting s i u v) : u.res3 = s.res3 :=
  (congrArg State.res3 h.running_eq :)
theorem Setting.out_eq (h : Setting s i u v) : u.out = s.out :=
  (congrArg State.out h.running_eq :)
theorem Setting.hist_eq (h : Setting s i u v) : u.bq.hist = s.bq.hist :=
  (congrArg (fun x => x.bq.hist) h.running_eq :)
theorem Setting.line_eq (h : Setting s i u v) : u.rvb.line = s.rvb.line :=
  (congrArg (fun x => x.rvb.line) h.running_eq :)
theorem Setting.lineLen_eq (h : Setting s i u v) : u.rvb.lineLen = s.rvb.lineLen :=
  (congrArg (fun x => x.rvb.lineLen) h.running_eq :)
theorem Setting.pos_eq (h : Setting s i u v) : u.seek.pos = s.seek.pos :=
  (congrArg (fun x => x.seek.pos) h.running_eq :)
theorem Setting.pend_eq (h : Setting s i u v) : u.seek.pend = s.seek.pend :=
  (congrArg (fun x => x.seek.pend) h.running_eq :)
theorem Setting.left_eq (h : Setting s i u v) : u.seek.left = s.seek.left :=
  (congrArg (fun x => x.seek.left) h.running_eq :)

end

/-! ### PUSH and the flush of END, field by field -/

/-- PUSH leaves everything but the running state, the seeker as tracked, and new bytes in OUT. -/
theorem pushChunk_same (payload : List Byte) (s : State) :
    ∃ bytes,
      SameButRunning
        { s with
          seek := (track s.geo s.seek (s.seek.left ++ payload)).2
          out := s.out ++ bytes } (pushChunk payload s) := by
  obtain ⟨u, bytes, hu, hpush⟩ := pushChunk_cases payload s
  rw [hpush]
  exact ⟨bytes, hu.phase, hu.lastErr, hu.errSticky, hu.evq, hu.res0, hu.res1, hu.res2, hu.res3,
    congrArg (· ++ bytes) hu.out, hu.geo, hu.bq, hu.cmp, hu.rvb, hu.vol, hu.seek, hu.port⟩

section
variable (payload : List Byte) (s : State)

@[simp] theorem pushChunk_phase : (pushChunk payload s).phase = s.phase :=
  (pushChunk_same payload s).elim fun _ h => h.phase
@[simp] theorem pushChunk_errSticky : (pushChunk payload s).errSticky = s.errSticky :=
  (pushChunk_same payload s).elim fun _ h => h.errSticky
@[simp] theorem pushChunk_evq : (pushChunk payload s).evq = s.evq :=
  (pushChunk_same payload s).elim fun _ h => h.evq
@[simp] theorem pushChunk_res0 : (pushChunk payload s).res0 = s.res0 :=
  (pushChunk_same payload s).elim fun _ h => h.res0
@[simp] theorem pushChunk_res1 : (pushChunk payload s).res1 = s.res1 :=
  (pushChunk_same payload s).elim fun _ h => h.res1
@[simp] theorem pushChunk_res2 : (pushChunk payload s).res2 = s.res2 :=
  (pushChunk_same payload s).elim fun _ h => h.res2
@[simp] theorem pushChunk_res3 : (pushChunk payload s).res3 = s.res3 :=
  (pushChunk_same payload s).elim fun _ h => h.res3
@[simp] theorem pushChunk_geo : (pushChunk payload s).geo = s.geo :=
  (pushChunk_same payload s).elim fun _ h => h.geo
@[simp] theorem pushChunk_seek :
    (pushChunk payload s).seek = (track s.geo s.seek (s.seek.left ++ payload)).2 :=
  (pushChunk_same payload s).elim fun _ h => h.seek

theorem flushLeftover_same : SameButRunning s (flushLeftover s) := by
  unfold flushLeftover
  dsimp only
  split
  · exact processFrames_same _ _
  · exact SameButRunning.refl s

@[simp] theorem flushLeftover_errSticky : (flushLeftover s).errSticky = s.errSticky :=
  (flushLeftover_same s).errSticky
@[simp] theorem flushLeftover_evq : (flushLeftover s).evq = s.evq := (flushLeftover_same s).evq
@[simp] theorem flushLeftover_res0 : (flushLeftover s).res0 = s.res0 := (flushLeftover_same s).res0
@[simp] theorem flushLeftover_res1 : (flushLeftover s).res1 = s.res1 := (flushLeftover_same s).res1
@[simp] theorem flushLeftover_res2 : (flushLeftover s).res2 = s.res2 := (flushLeftover_same s).res2
@[simp] theorem flushLeftover_res3 : (flushLeftover s).res3 = s.res3 := (flushLeftover_same s).res3
@[simp] theorem flushLeftover_out : (flushLeftover s).out = s.out := (flushLeftover_same s).out
@[simp] theorem flushLeftover_geo : (flushLeftover s).geo = s.geo := (flushLeftover_same s).geo

end

/-! ### Commands that can fail and setters are no other commands -/

theorem absurd_mayFail {i j : Instr} {C : Prop} (hi : mayFail i = true) (hj : mayFail j = false)
    (heq : i = j) : C := by
  rw [heq, hj] at hi
  cases hi

theorem absurd_setter {i j : Instr} {addr : BitVec 16} {C : Prop}
    (hi : setterAddress i = some addr) (hj : setterAddress j = none) (heq : i = j) : C := by
  rw [heq, hj] at hi
  cases hi

/-! ### EVQ, the result registers, OUT -/

/-- Settles O16: along the ends of a command. -/
theorem atMostOneEvent : Obligations.AtMostOneEvent := by
  intro i s t h
  cases exec_effect h with
  | rejected hi =>
    exact ⟨absurd_mayFail hi rfl, absurd_mayFail hi rfl, fun _ _ => .inl rfl⟩
  | accepted haddr hset =>
    exact ⟨absurd_setter haddr rfl, absurd_setter haddr rfl,
      fun _ _ => .inr ⟨_, congrArg (· ++ [_]) hset.evq_eq⟩⟩
  | popEmpty hq => simp [hq]
  | pop hq => simp [hq]
  | reset => simp [State.reset]
  | _ => simp

/-- Settles O19: PUSH alone emits. -/
theorem outputOnlyGrows : Obligations.OutputOnlyGrows := by
  intro i s t h
  cases exec_effect h with
  | rejected hi => exact ⟨absurd_mayFail hi rfl, fun _ => ⟨[], by simp⟩⟩
  | accepted haddr hset =>
    exact ⟨absurd_setter haddr rfl,
      fun _ => ⟨[], by simp [State.reconfigured, hset.out_eq]⟩⟩
  | push =>
    obtain ⟨bytes, hsame⟩ := pushChunk_same _ s
    exact ⟨nofun, fun _ => ⟨bytes, hsame.out, fun _ => ⟨_, rfl⟩⟩⟩
  | reset => simp [State.reset]
  | _ => simp

/-- Settles O18: along the ends of a command; POP_EVENT shows the record by its kind. -/
theorem resultRegisters : Obligations.ResultRegisters := by
  intro i s t h
  cases exec_effect h with
  | rejected hi he =>
    exact ⟨absurd_mayFail hi rfl, absurd_mayFail hi rfl, fun _ _ hok => absurd hok he,
      fun _ _ hok => absurd hok he, fun _ _ => ⟨⟨rfl, rfl, rfl⟩, fun _ _ => rfl, fun _ => rfl⟩⟩
  | accepted haddr hset =>
    exact ⟨absurd_setter haddr rfl, absurd_setter haddr rfl, fun _ => absurd_setter haddr rfl,
      fun _ => absurd_setter haddr rfl,
      fun _ _ => ⟨⟨hset.res1_eq, hset.res2_eq, hset.res3_eq⟩, fun _ _ => hset.res0_eq,
        fun hne => absurd rfl hne⟩⟩
  | popEmpty hq => simp [hq]
  | @pop ev evs hq => cases ev <;> simp [hq, Event.words]
  | readReg hv => simp [hv]
  | reset => simp [State.reset]
  | seekUnset _ hd => simp [hd]
  | seekStays _ hd => simp [hd, State.seekTimeOf]
  | seekMoves _ hd => simp [hd, State.seekTimeOf]
  | _ => simp

/-! ### PHASE and the geometry -/

theorem phase_eq_idle_iff {p : Phase} : p = .idle ↔ p ≠ .active := by cases p <;> simp

/-- Settles O21: along the ends of a command; a setter is locked as `Setting.locked` says. -/
theorem phaseAndGeometryTransitions : Obligations.PhaseAndGeometryTransitions := by
  intro i s t h
  cases exec_effect h with
  | rejected hi =>
    exact ⟨absurd_mayFail hi rfl, fun ha hi => by simp_all, fun ha hi => by simp_all,
      fun _ _ => ⟨rfl, rfl, rfl⟩⟩
  | accepted haddr hset =>
    have hphase := hset.phase_eq
    exact ⟨absurd_setter haddr rfl, fun ha hi => by simp_all [State.reconfigured],
      fun ha hi => by simp_all [State.reconfigured], fun hact _ => hset.locked hact⟩
  | reset => simp [State.reset]
  | finish | closed | ioFailure => simp
  | _ => simp +contextual [phase_eq_idle_iff]

/-! ### STATUS and the interrupt line -/

theorem boolWord_getLsbD_shift (b : Bool) (n k : Nat) (hn : n < 64) :
    (boolWord b <<< n).getLsbD k = (b && decide (k = n)) := by
  cases b with
  | false => simp [boolWord]
  | true =>
    have hbit : boolWord true <<< n = BitVec.twoPow 64 n := rfl
    simp [hbit, BitVec.getLsbD_twoPow, hn, eq_comm]

/-- STATUS as a function of the bit's number. -/
theorem status_getLsbD (s : State) (k : Nat) :
    s.status.getLsbD k =
      (decide (s.phase = .active) && decide (k = 0) || s.errSticky && decide (k = 1) ||
        s.irq && decide (k = 2) || s.seek.pend.isSome && decide (k = 3)) := by
  have h0 : boolWord (decide (s.phase = .active)) = boolWord (decide (s.phase = .active)) <<< 0 := by
    simp
  unfold State.status
  rw [h0]
  simp only [BitVec.getLsbD_or]
  rw [boolWord_getLsbD_shift _ 0 k (by decide), boolWord_getLsbD_shift _ 1 k (by decide),
    boolWord_getLsbD_shift _ 2 k (by decide), boolWord_getLsbD_shift _ 3 k (by decide)]

theorem status_errSticky (s : State) : s.status.getLsbD 1 = s.errSticky :=
  (status_getLsbD s 1).trans (by simp)

theorem irq_iff (s : State) : s.irq = true ↔ s.evq ≠ [] := by simp [State.irq]

/-- An event that is queued stays queued, but for POP_EVENT and RESET. -/
theorem irq_stays_high {s t : State} {i : Instr} (h : exec i s = .next t) (hpop : i ≠ .ctlPopEvent)
    (hreset : i ≠ .ctlReset) (hirq : s.irq = true) : t.irq = true := by
  rw [irq_iff] at hirq ⊢
  obtain ⟨-, -, hqueue⟩ := atMostOneEvent i s t h
  rcases hqueue hreset hpop with heq | ⟨ev, heq⟩
  · rwa [heq]
  · simp [heq]

/-- A command that ends in an error is rejected; every other ends with LAST_ERR 0. -/
theorem Effect.rejected_or_ok {s t : State} {i : Instr} (h : Effect s i t) :
    (∃ e, mayFail i = true ∧ e ≠ .ok ∧ t = s.rejected e) ∨ t.lastErr = .ok := by
  cases h with
  | rejected hi he => exact .inl ⟨_, hi, he, rfl⟩
  | _ => exact .inr rfl

/-- Settles O20: the bits by `status_getLsbD`, the line by what commands do to EVQ. -/
theorem statusAndInterrupt : Obligations.StatusAndInterrupt := by
  refine ⟨by decide, fun s => ⟨(status_getLsbD s 0).trans (by simp), status_errSticky s,
    (status_getLsbD s 2).trans (by simp), (status_getLsbD s 3).trans (by simp), fun k hk => ?_,
    irq_iff s⟩, fun i s t h => ⟨?_, ?_⟩⟩
  · simp [status_getLsbD, show k ≠ 0 by omega, show k ≠ 1 by omega, show k ≠ 2 by omega,
      show k ≠ 3 by omega]
  · intro hne
    obtain ⟨e, -, -, rfl⟩ | hok := (exec_effect h).rejected_or_ok
    · rfl
    · exact absurd hok hne
  · intro hirq hlow
    by_contra hcon
    obtain ⟨hpop, hreset⟩ := not_or.1 hcon
    rw [irq_stays_high h hpop hreset hirq] at hlow
    cases hlow

/-! ### ERR_STICKY -/

/-- An error sets ERR_STICKY; ACK_ERR and RESET clear it; every other command keeps it. -/
theorem Effect.errSticky_cases {s t : State} {i : Instr} (h : Effect s i t) :
    (t.lastErr ≠ .ok → t.errSticky = true) ∧
      (t.lastErr = .ok → i ≠ .ctlAckErr → i ≠ .ctlReset → t.errSticky = s.errSticky) ∧
      (i = .ctlAckErr ∨ i = .ctlReset → t.errSticky = false) := by
  cases h with
  | rejected hi he =>
    exact ⟨fun _ => rfl, fun hok => absurd hok he, fun heq =>
      heq.elim (absurd_mayFail hi rfl) (absurd_mayFail hi rfl)⟩
  | accepted haddr hset =>
    exact ⟨fun hne => absurd rfl hne, fun _ _ _ => hset.errSticky_eq,
      fun heq => heq.elim (absurd_setter haddr rfl) (absurd_setter haddr rfl)⟩
  | reset => simp [State.reset]
  | _ => simp

/-- Settles O15: an illegal command is an error like any other. -/
theorem stickyErrorBit : Obligations.StickyErrorBit := by
  refine ⟨rfl, status_errSticky, fun s t c rest htake hstep => ?_⟩
  obtain ⟨c', rest', htake', h⟩ := step_cases hstep
  obtain ⟨rfl, rfl⟩ := Prod.mk.inj (Option.some.inj (htake.symm.trans htake'))
  obtain ⟨e, hdec, rfl⟩ | ⟨i, hdec, heff⟩ := h
  · simp [hdec]
  · simpa [hdec] using heff.errSticky_cases

end Sys2Proof.Machine
end

section
/-!
The parameters: what an accepted operand is (in range, and never −0), which ends of a command leave every
parameter, and the two invariants over them, legal values and derived registers.
-/

namespace Sys2Proof.Machine

/-! ### Order on the number line -/

theorem f64IsNaN_of_finite {x : F64} (h : f64IsFinite x = true) : f64IsNaN x = false := by
  obtain ⟨s, m, hu⟩ := f64IsFinite_iff.1 h
  unfold f64IsNaN
  rw [hu]

theorem fle_of_not_flt {x y : F64} (hx : f64IsNaN x = false) (hy : f64IsNaN y = false)
    (h : flt y x = false) : fle x y = true := by
  obtain ⟨a, ha⟩ := f64Key_of_not_nan hx
  obtain ⟨b, hb⟩ := f64Key_of_not_nan hy
  rw [flt_eq_of_keys hb ha, decide_eq_false_iff_not] at h
  rw [fle_eq_of_keys ha hb, decide_eq_true_eq]
  omega

theorem flt_of_not_fle {x y : F64} (hx : f64IsNaN x = false) (hy : f64IsNaN y = false)
    (h : fle y x = false) : flt x y = true := by
  obtain ⟨a, ha⟩ := f64Key_of_not_nan hx
  obtain ⟨b, hb⟩ := f64Key_of_not_nan hy
  rw [fle_eq_of_keys hb ha, decide_eq_false_iff_not] at h
  rw [flt_eq_of_keys ha hb, decide_eq_true_eq]
  omega

theorem fle_of_flt {x y : F64} (h : flt x y = true) : fle x y = true := by
  unfold flt at h
  unfold fle
  split at h
  next a b _ _ =>
    rw [decide_eq_true_eq] at h ⊢
    exact h.le
  all_goals cases h

/-! ### What a checked operand is -/

/-- Bounds a clamp can answer: two numbers in order. -/
abbrev ClampBounds (lo hi : F64) : Prop :=
  f64IsNaN lo = false ∧ f64IsNaN hi = false ∧ fle lo lo = true ∧ fle lo hi = true ∧ fle hi hi = true

/-- Bounds for which a clamp never answers −0: neither is −0, and −0 is not strictly between them. -/
abbrev ExcludesNegZero (lo hi : F64) : Prop :=
  lo ≠ fneg f64Zero ∧ hi ≠ fneg f64Zero ∧ (flt lo (fneg f64Zero) && flt (fneg f64Zero) hi) = false

theorem fle_of_clamped {v lo hi x : F64} (h : clampedOperand v lo hi = .ok x)
    (hb : ClampBounds lo hi := by decide +kernel) : fle lo x = true ∧ fle x hi = true := by
  obtain ⟨hlo, hhi, hll, hlh, hhh⟩ := hb
  obtain ⟨hnan, rfl⟩ := clampedOperand_eq_ok.1 h
  rcases clampF_cases hnan hlo hhi with ⟨heq, -⟩ | ⟨heq, -, -⟩ | ⟨heq, hl, hh⟩ <;> rw [heq]
  · exact ⟨hll, hlh⟩
  · exact ⟨hlh, hhh⟩
  · exact ⟨fle_of_flt hl, fle_of_flt hh⟩

theorem inRange_of_clamped {v lo hi x : F64} (h : clampedOperand v lo hi = .ok x)
    (hb : ClampBounds lo hi := by decide +kernel)
    (hz : ExcludesNegZero lo hi := by decide +kernel) : inRange lo hi x := by
  obtain ⟨hlx, hxh⟩ := fle_of_clamped h hb
  obtain ⟨hlo, hhi, -⟩ := hb
  obtain ⟨hzlo, hzhi, hzmid⟩ := hz
  refine ⟨hlx, hxh, ?_⟩
  obtain ⟨hnan, rfl⟩ := clampedOperand_eq_ok.1 h
  rcases clampF_cases hnan hlo hhi with ⟨heq, -⟩ | ⟨heq, -, -⟩ | ⟨heq, hl, hh⟩ <;> rw [heq]
  · exact hzlo
  · exact hzhi
  · rintro rfl
    rw [hl, hh] at hzmid
    cases hzmid

theorem plusZero_ne_negZero (v : F64) : plusZero v ≠ fneg f64Zero := by
  unfold plusZero
  split
  next => decide
  next h =>
    rintro rfl
    exact h (by decide)

/-- A number that is not below 0 stays at least 0, and what it is, without its sign of zero. -/
theorem plusZero_nonneg {v : F64} (hnan : f64IsNaN v = false) (h : flt v f64Zero = false) :
    fle f64Zero (plusZero v) = true := by
  unfold plusZero
  split
  · decide
  · exact fle_of_not_flt (by decide) hnan h

theorem f64IsFinite_plusZero {v : F64} (h : f64IsFinite v = true) : f64IsFinite (plusZero v) = true := by
  unfold plusZero
  split
  · decide
  · exact h

/-- Up to exponent field `k + 1` no number has more quanta than 2^53 − 1 of that binade's units. -/
theorem magOfLow_le {low k : Nat} (h : low < (k + 2) * 2 ^ 52) : magOfLow low ≤ (2 ^ 53 - 1) * 2 ^ k := by
  have hf : low % 2 ^ 52 < 2 ^ 52 := Nat.mod_lt _ (by decide)
  unfold magOfLow
  split
  next =>
    calc low % 2 ^ 52 ≤ 2 ^ 53 - 1 := by omega
      _ ≤ (2 ^ 53 - 1) * 2 ^ k := Nat.le_mul_of_pos_right _ (Nat.two_pow_pos _)
  next => exact Nat.mul_le_mul (by omega) (Nat.pow_le_pow_right (by decide) (by omega))

theorem f64Key_volMax : f64Key Config.volMax = some (((2 ^ 53 - 1) * 2 ^ 2045 : Nat) : Int) := by
  decide +kernel

theorem fle_volMax {v : F64} (h : f64IsFinite v = true) : fle v Config.volMax = true := by
  obtain ⟨s, m, hu⟩ := f64IsFinite_iff.1 h
  obtain ⟨-, hlow, rfl⟩ := low_of_fin hu
  rw [fle_eq_of_keys (f64Key_fin hu) f64Key_volMax, decide_eq_true_eq]
  have hm := Int.ofNat_le.2 (magOfLow_le (k := 2045) hlow)
  unfold signedMag
  split <;> omega

/-- What is no NaN, not below 0 and not +∞ is finite. -/
theorem f64IsFinite_of_nonneg {v : F64} (hnan : f64IsNaN v = false) (hneg : flt v f64Zero = false)
    (hinf : v ≠ f64Inf) : f64IsFinite v = true := by
  cases hu : f64Unpack v with
  | nan => rw [f64IsNaN_iff.2 hu] at hnan; cases hnan
  | fin s m => exact f64IsFinite_iff.2 ⟨s, m, hu⟩
  | inf s =>
    cases s with
    | true =>
      rw [flt_eq_of_keys (f64Key_inf hu) f64Key_zero, decide_eq_false_iff_not] at hneg
      have := infKey_pos
      exact absurd (show -(infKey : Int) < 0 by omega) hneg
    | false =>
      refine absurd ?_ hinf
      rw [f64Unpack_eq] at hu
      split at hu
      next => cases hu
      next =>
        split at hu
        next hlow => rw [← f64Pack_sign_low v, hlow, F64Val.inf.inj hu]; exact f64InfOf_false
        next => cases hu

theorem inRange_of_volume {v x : F64} (h : volumeOperand v = .ok x) :
    inRange f64Zero Config.volMax x := by
  obtain ⟨⟨hnan, hneg⟩, rfl⟩ := volumeOperand_eq_ok.1 h
  split
  next => decide +kernel
  next hinf =>
    have hfin := f64IsFinite_of_nonneg hnan hneg hinf
    exact ⟨plusZero_nonneg hnan hneg, fle_volMax (f64IsFinite_plusZero hfin), plusZero_ne_negZero v⟩

/-! ### Legal parameters, unit by unit -/

/-- `State.paramsOk`'s part over the geometry. -/
def Geometry.legal (g : Geometry) : Prop :=
  (1 ≤ g.rate.toNat ∧ g.rate.toNat ≤ max Config.maxRate 48000) ∧
    (1 ≤ g.chans ∧ g.chans ≤ max Config.maxChannels 2) ∧
    f64IsFinite g.rateF = true ∧ flt f64Zero g.rateF = true

/-- `State.paramsOk`'s part over BQ, at a rate. -/
def BqUnit.legal (rateF : F64) (u : BqUnit) : Prop :=
  (f64IsFinite u.freq = true ∧ fle f64Zero u.freq = true ∧
      flt rateF (fmul f64Two u.freq) = false) ∧
    (f64IsFinite u.q = true ∧ flt f64Zero u.q = true) ∧ f64IsFinite u.gain = true

/-- `State.paramsOk`'s part over CMP. -/
def CmpUnit.legal (u : CmpUnit) : Prop :=
  inRange f64NegHundred f64Zero u.threshold ∧ inRange f64One f64Inf u.ratio ∧
    inRange f64Zero f64Inf u.attackMs ∧ inRange f64Zero f64Inf u.releaseMs ∧
    (fle f64NegTwenty u.makeup = true ∧ fle u.makeup f64Twenty = true) ∧
    inRange f64Zero f64Twenty u.knee

/-- `State.paramsOk`'s part over RVB. -/
def RvbUnit.legal (u : RvbUnit) : Prop :=
  inRange f64Zero f64One u.room ∧ inRange f64Zero f64One u.damping ∧ inRange f64Zero f64One u.wet ∧
    inRange f64Zero f64One u.dry

/-- `State.paramsOk`'s part over SEEK. -/
def SeekUnit.legal (u : SeekUnit) : Prop :=
  u.totalMs = f64Zero ∨ (f64IsFinite u.totalMs = true ∧ flt f64Zero u.totalMs = true)

theorem State.paramsOk_iff (s : State) :
    s.paramsOk ↔
      s.geo.legal ∧ s.bq.legal s.geo.rateF ∧ s.cmp.legal ∧ s.rvb.legal ∧
        inRange f64Zero Config.volMax s.vol.volume ∧ s.seek.legal := by
  simp only [State.paramsOk, Geometry.legal, BqUnit.legal, CmpUnit.legal, RvbUnit.legal,
    SeekUnit.legal, and_assoc]

/-! ### What an accepted setter does to the parameters -/

/-- A setter stores legal values. -/
theorem Setting.paramsOk {s u : State} {i : Instr} {v : Word} (h : Setting s i u v)
    (hs : s.paramsOk) : u.paramsOk := by
  rw [State.paramsOk_iff] at hs ⊢
  obtain ⟨hgeo, hbq, hcmp, hrvb, hvol, hseek⟩ := hs
  obtain ⟨hrate, hchans, hfs⟩ := id hgeo
  obtain ⟨hfreq, hq, hgain⟩ := id hbq
  obtain ⟨hthr, hratio, hatt, hrel, hmake, hknee⟩ := id hcmp
  obtain ⟨hroom, hdamp, hwet, hdry⟩ := id hrvb
  cases h with
  | rate hv =>
    obtain ⟨⟨hlow, hhigh, hnyq⟩, rfl⟩ := rateOperand_eq_ok.1 hv
    obtain ⟨hfin, hnonneg, -⟩ := hfreq
    have hpos := flt_zero_toF64 (Int.natCast_pos.2 hlow)
    exact ⟨⟨⟨hlow, le_max_of_le_left hhigh⟩, hchans, f64IsFinite_toF64 _, hpos⟩,
      ⟨⟨hfin, hnonneg, hnyq⟩, hq, hgain⟩, hcmp, hrvb, hvol, hseek⟩
  | channels _ hv =>
    obtain ⟨⟨hlow, hhigh⟩, rfl⟩ := channelsOperand_eq_ok.1 hv
    exact ⟨⟨hrate, ⟨hlow, le_max_of_le_left hhigh⟩, hfs⟩, hbq, hcmp, hrvb, hvol, hseek⟩
  | bqFreq hv =>
    obtain ⟨⟨hfin, hneg, hnyq⟩, rfl⟩ := freqOperand_eq_ok.1 hv
    exact ⟨hgeo, ⟨⟨f64IsFinite_plusZero hfin, plusZero_nonneg (f64IsNaN_of_finite hfin) hneg, hnyq⟩,
      hq, hgain⟩, hcmp, hrvb, hvol, hseek⟩
  | bqQ hv =>
    obtain ⟨hnew, rfl⟩ := qOperand_eq_ok.1 hv
    exact ⟨hgeo, ⟨hfreq, hnew, hgain⟩, hcmp, hrvb, hvol, hseek⟩
  | bqGain hv =>
    obtain ⟨hnew, rfl⟩ := gainOperand_eq_ok.1 hv
    exact ⟨hgeo, ⟨hfreq, hq, hnew⟩, hcmp, hrvb, hvol, hseek⟩
  | threshold hv =>
    exact ⟨hgeo, hbq, ⟨inRange_of_clamped hv, hratio, hatt, hrel, hmake, hknee⟩, hrvb, hvol, hseek⟩
  | ratio hv =>
    exact ⟨hgeo, hbq, ⟨hthr, inRange_of_clamped hv, hatt, hrel, hmake, hknee⟩, hrvb, hvol, hseek⟩
  | attack hv =>
    exact ⟨hgeo, hbq, ⟨hthr, hratio, inRange_of_clamped hv, hrel, hmake, hknee⟩, hrvb, hvol, hseek⟩
  | release hv =>
    exact ⟨hgeo, hbq, ⟨hthr, hratio, hatt, inRange_of_clamped hv, hmake, hknee⟩, hrvb, hvol, hseek⟩
  | makeup hv =>
    exact ⟨hgeo, hbq, ⟨hthr, hratio, hatt, hrel, fle_of_clamped hv, hknee⟩, hrvb, hvol, hseek⟩
  | knee hv =>
    exact ⟨hgeo, hbq, ⟨hthr, hratio, hatt, hrel, hmake, inRange_of_clamped hv⟩, hrvb, hvol, hseek⟩
  | room hv =>
    exact ⟨hgeo, hbq, hcmp, ⟨inRange_of_clamped hv, hdamp, hwet, hdry⟩, hvol, hseek⟩
  | damping hv =>
    exact ⟨hgeo, hbq, hcmp, ⟨hroom, inRange_of_clamped hv, hwet, hdry⟩, hvol, hseek⟩
  | wet hv =>
    exact ⟨hgeo, hbq, hcmp, ⟨hroom, hdamp, inRange_of_clamped hv, hdry⟩, hvol, hseek⟩
  | dry hv =>
    exact ⟨hgeo, hbq, hcmp, ⟨hroom, hdamp, hwet, inRange_of_clamped hv⟩, hvol, hseek⟩
  | volume hv => exact ⟨hgeo, hbq, hcmp, hrvb, inRange_of_volume hv, hseek⟩
  | duration hv =>
    obtain ⟨⟨hfin, hpos⟩, rfl⟩ := durationOperand_eq_ok.1 hv
    exact ⟨hgeo, hbq, hcmp, hrvb, hvol,
      .inr ⟨hfin, flt_of_not_fle (by decide) (f64IsNaN_of_finite hfin) hpos⟩⟩
  | _ => exact ⟨hgeo, hbq, hcmp, hrvb, hvol, hseek⟩

/-- A setter writes every register that depends on its parameter together with it. -/
theorem Setting.derivedOk {s u : State} {i : Instr} {v : Word} (h : Setting s i u v)
    (hs : s.derivedOk) : u.derivedOk := by
  obtain ⟨hdesign, hfin, hatt, hrel, hgain⟩ := hs
  cases h with
  | rate _ hc =>
    obtain ⟨hnew, rfl⟩ := checkedDesign_eq_ok.1 hc
    exact ⟨rfl, hnew, rfl, rfl, hgain⟩
  | bqType _ hc | bqFreq _ hc | bqQ _ hc | bqGain _ hc =>
    obtain ⟨hnew, rfl⟩ := checkedDesign_eq_ok.1 hc
    exact ⟨rfl, hnew, hatt, hrel, hgain⟩
  | attack => exact ⟨hdesign, hfin, rfl, hrel, hgain⟩
  | release => exact ⟨hdesign, hfin, hatt, rfl, hgain⟩
  | volume => exact ⟨hdesign, hfin, hatt, hrel, rfl⟩
  | _ => exact ⟨hdesign, hfin, hatt, hrel, hgain⟩

/-! ### Which commands leave the parameters -/

theorem SameButRunning.parameters_eq {s t : State} (h : SameButRunning s t) :
    t.parameters = s.parameters := by
  obtain ⟨hist, -, hbq⟩ := h.bq
  obtain ⟨env, gr, hcmp⟩ := h.cmp
  obtain ⟨line, cursor, -, hrvb⟩ := h.rvb
  unfold State.parameters
  rw [h.geo, hbq, hcmp, hrvb, h.vol, h.seek]
  rfl

theorem track_cleared (g : Geometry) (u : SeekUnit) (buf : List Byte) :
    (track g u buf).2.cleared = u.cleared := by
  rcases track_cases g u buf with ⟨-, h⟩ | ⟨p, -, -, h⟩ | ⟨p, -, -, h⟩ <;> rw [h] <;> rfl

theorem movedTo_cleared (u : SeekUnit) (target : Word) : (u.movedTo target).cleared = u.cleared := by
  unfold SeekUnit.movedTo
  split <;> rfl

theorem pushChunk_parameters (payload : List Byte) (s : State) :
    (pushChunk payload s).parameters = s.parameters := by
  obtain ⟨bytes, hsame⟩ := pushChunk_same payload s
  rw [hsame.parameters_eq]
  unfold State.parameters
  rw [track_cleared]

theorem teardown_parameters (s : State) : s.teardown.parameters = s.parameters := by
  cases hp : s.phase with
  | idle => rw [State.teardown_of_idle hp]
  | active => rw [State.teardown_of_active hp]; rfl

/-- Setters and RESET aside, a command leaves every parameter and every derived register. -/
theorem Effect.parameters_cases {s t : State} {i : Instr} (h : Effect s i t) :
    t.parameters = s.parameters ∨ (∃ u v, Setting s i u v ∧ t.parameters = u.parameters) ∨
      t.parameters = State.reset.parameters := by
  cases h with
  | accepted _ hset => exact .inr (.inl ⟨_, _, hset, rfl⟩)
  | reset => exact .inr (.inr rfl)
  | create | destroy | closed | ioFailure => exact .inl (teardown_parameters s)
  | push => exact .inl (pushChunk_parameters _ s)
  | finish =>
    exact .inl ((teardown_parameters _).trans (flushLeftover_same s).parameters_eq)
  | seekMoves =>
    refine .inl ?_
    show State.parameters { s with seek := s.seek.movedTo _ } = s.parameters
    unfold State.parameters
    rw [movedTo_cleared]
  | _ => exact .inl rfl

/-- An invariant over the parameters alone, that holds at reset and that accepted setters keep, is kept
by every command. -/
theorem Effect.keeps_parameters {P : State → Prop} (hP : ∀ s : State, P s.parameters ↔ P s)
    (hset : ∀ s u i v, Setting s i u v → P s → P u) (hreset : P State.reset) (i : Instr) (s t : State)
    (h : Effect s i t) (hs : P s) : P t := by
  rw [← hP]
  rcases h.parameters_cases with heq | ⟨u, v, hu, heq⟩ | heq <;> rw [heq, hP]
  · exact hs
  · exact hset s u i v hu hs
  · exact hreset

/-! ### Reset -/

theorem reset_paramsOk : State.reset.paramsOk := by
  rw [State.paramsOk_iff]
  refine ⟨⟨⟨by decide, le_max_right _ _⟩, ⟨by decide, le_max_right _ _⟩, f64IsFinite_toF64 _,
    flt_zero_toF64 (by decide)⟩, ?_, ?_, ?_, ?_, .inl rfl⟩
  · unfold BqUnit.legal; decide +kernel
  · unfold CmpUnit.legal; decide +kernel
  · unfold RvbUnit.legal; decide +kernel
  · decide +kernel

theorem reset_derivedOk : State.reset.derivedOk := by
  obtain ⟨m, hrate, -⟩ := f64Unpack_rate (rate := 48000) (by decide)
  have hcoef : coefOf State.reset.geo.rateF f64Zero = f64Zero := coefOf_zero hrate
  exact ⟨rfl, by decide +kernel, hcoef.symm, hcoef.symm, by decide +kernel⟩

/-! ### The two invariants -/

/-- Settles O55: setters store legal values, RESET stores those of reset, nothing else writes a
parameter. -/
theorem parametersInvariantKept : Obligations.ParametersInvariantKept := fun _ _ hs h =>
  step_keeps (P := State.paramsOk) (fun _ _ hs => hs) (fun _ _ _ hs => hs)
    (Effect.keeps_parameters (fun _ => Iff.rfl) (fun _ _ _ _ hset => hset.paramsOk) reset_paramsOk)
    hs h

/-- Settles O56: a derived register is written with its parameter; a command that leaves an error code
is one that was rejected. -/
theorem derivedInvariantKept : Obligations.DerivedInvariantKept := by
  constructor
  · intro s t hs h
    exact step_keeps (P := State.derivedOk) (fun _ _ hs => hs) (fun _ _ _ hs => hs)
      (Effect.keeps_parameters (fun _ => Iff.rfl) (fun _ _ _ _ hset => hset.derivedOk)
        reset_derivedOk) hs h
  · intro s t hs h
    exact step_keeps (P := State.stickyOk) (fun _ _ hs => hs) (fun _ _ _ _ _ => rfl)
      (fun _ _ _ heff _ => heff.errSticky_cases.1) hs h

end Sys2Proof.Machine
end

section
/-!
The running state: what a step of BQ and RVB can list in its cell store, which invariants a run of samples
keeps, and the lifecycle, framing, cell-store and position invariants along the ends of a command.
-/

namespace Sys2Proof.Machine

/-! ### The cells a sample can list -/

/-- A write lists no address but the written one. -/
theorem Memory.forall_write {m : Memory} {Q : Nat → Prop} {k : Nat} {v : F64} (hold : ∀ c ∈ m, Q c.1)
    (hnew : Q k) : ∀ c ∈ m.write k v, Q c.1 := by
  intro c hc
  rcases Memory.mem_write hc with rfl | hmem
  · exact hnew
  · exact hold c hmem

/-- A BQ step lists no cells but its channel's four. -/
theorem forall_hist_bqStep {Q : Nat → Prop} (ext : Nat) {u : BqUnit} {ch : Nat} (v : Int) (free : Nat)
    (hold : ∀ c ∈ u.hist, Q c.1) (hnew : ∀ k, k < 4 → Q (4 * ch + k)) :
    ∀ c ∈ (bqStep ext u ch v free).2.1.hist, Q c.1 :=
  Memory.forall_write
    (Memory.forall_write
      (Memory.forall_write (Memory.forall_write hold (hnew 1 (by decide))) (hnew 0 (by decide)))
      (hnew 3 (by decide)))
    (hnew 2 (by decide))

/-- The line loop lists no cells but the one at the cursor of each line it runs over. -/
theorem forall_line_sweepLines {Q : Nat → Prop} {fb k x : F64} {len cur count i : Nat} {w : LineSweep}
    (hold : ∀ c ∈ w.line, Q c.1) (hnew : ∀ j, j < i + count → Q (j * len + cur)) :
    ∀ c ∈ (sweepLines fb k x len cur count i w).line, Q c.1 := by
  induction count generalizing i w with
  | zero => exact hold
  | succ count ih =>
    exact ih (Memory.forall_write hold (hnew i (by omega))) fun j hj => hnew j (by omega)

theorem forall_line_rvbStep {Q : Nat → Prop} (ext : Nat) {u : RvbUnit} (v : Int) (free : Nat)
    (hold : ∀ c ∈ u.line, Q c.1)
    (hnew : ∀ j, j < Config.nLines → Q (j * u.lineLen.toNat + u.cursor.toNat)) :
    ∀ c ∈ (rvbStep ext u v free).2.1.line, Q c.1 :=
  forall_line_sweepLines hold fun j hj => hnew j (by omega)

/-! ### Invariants of a run of samples -/

/-- Every stage that changes the state keeps `P`. -/
structure StageKeeps (P : State → Prop) : Prop where
  cmp : ∀ v s, P s → P (stageCmp v s).2
  rvb : ∀ v s, P s → P (stageRvb v s).2
  bq : ∀ ch v s, ch < s.geo.chans → P s → P (stageBq ch v s).2

section
variable {P : State → Prop} {s : State}

theorem StageKeeps.chain (h : StageKeeps P) {ch : Nat} (v : Int) (hch : ch < s.geo.chans)
    (hs : P s) : P (stageChain ch v s).2 := by
  unfold stageChain
  simp only [stageVol_state]
  refine h.bq _ _ _ ?_ (h.rvb _ _ (h.cmp _ _ hs))
  rwa [(stageRvb_same _ _).geo, (stageCmp_same _ _).geo]

theorem StageKeeps.samples (h : StageKeeps P) (count j : Nat) (buf : List Byte)
    (hchans : 1 ≤ s.geo.chans) (hs : P s) : P (processSamples count j buf s).2 := by
  induction count generalizing j buf s with
  | zero => exact hs
  | succ count ih =>
    refine ih _ _ ?_ (h.chain _ (Nat.mod_lt _ hchans) hs)
    rwa [(stageChain_same _ _ _).geo]

/-- What every stage keeps and does not read of SEEK and OUT, PUSH keeps. -/
theorem StageKeeps.push (h : StageKeeps P) (hseek : ∀ s u, P s → P { s with seek := u })
    (hout : ∀ s bytes, P s → P (s.emit bytes)) (payload : List Byte) (hchans : 1 ≤ s.geo.chans)
    (hs : P s) : P (pushChunk payload s) :=
  hout _ _ (h.samples _ _ _ hchans (hseek _ _ hs))

end

/-- The cursor is one of the line's cells (R141). -/
def State.cursorOk (s : State) : Prop := s.rvb.cursor.toNat < s.rvb.lineLen.toNat

/-- `State.cellsOk`'s part over the cell stores. -/
def State.storesOk (s : State) : Prop :=
  s.bq.hist.wf ∧ s.rvb.line.wf ∧ (∀ c ∈ s.bq.hist, c.1 < 4 * s.geo.chans) ∧
    ∀ c ∈ s.rvb.line, c.1 < Config.nLines * s.rvb.lineLen.toNat

theorem State.cellsOk_iff (s : State) : s.cellsOk ↔ s.framingOk ∧ s.storesOk := Iff.rfl

theorem cursorOk_stages : StageKeeps State.cursorOk where
  cmp v s hs := by rcases stageCmp_cases v s with ⟨-, h⟩ | ⟨-, h⟩ <;> rw [h] <;> exact hs
  bq ch v s _ hs := by rcases stageBq_cases ch v s with ⟨-, h⟩ | ⟨-, h⟩ <;> rw [h] <;> exact hs
  rvb v s hs := by
    rcases stageRvb_cases v s with ⟨-, h⟩ | ⟨-, h⟩ <;> rw [h]
    · exact hs
    · show (BitVec.ofNat 64 ((s.rvb.cursor.toNat + 1) % s.rvb.lineLen.toNat)).toNat <
        s.rvb.lineLen.toNat
      rw [BitVec.toNat_ofNat]
      exact (Nat.mod_le _ _).trans_lt (Nat.mod_lt _ (Nat.zero_lt_of_lt hs))

/-- With the cursor in the line, a sample lists cells of existing channels and lines alone. -/
theorem storesOk_stages : StageKeeps fun s => s.cursorOk ∧ s.storesOk where
  cmp v s hs := by
    obtain ⟨hcursor, hstores⟩ := hs
    refine ⟨cursorOk_stages.cmp v s hcursor, ?_⟩
    rcases stageCmp_cases v s with ⟨-, h⟩ | ⟨-, h⟩ <;> rw [h] <;> exact hstores
  bq ch v s hch hs := by
    obtain ⟨hcursor, hhist, hline, hchan, hcell⟩ := hs
    refine ⟨cursorOk_stages.bq ch v s hch hcursor, ?_⟩
    rcases stageBq_cases ch v s with ⟨-, h⟩ | ⟨-, h⟩ <;> rw [h]
    · exact ⟨hhist, hline, hchan, hcell⟩
    · obtain ⟨hist, hw, hu⟩ := bqStep_unit s.geo.extremum s.bq ch v s.free
      exact ⟨by rw [hu]; exact hw hhist, hline,
        forall_hist_bqStep (Q := (· < 4 * s.geo.chans)) s.geo.extremum v s.free hchan
          fun k hk => by omega, hcell⟩
  rvb v s hs := by
    obtain ⟨hcursor, hhist, hline, hchan, hcell⟩ := hs
    refine ⟨cursorOk_stages.rvb v s hcursor, ?_⟩
    rcases stageRvb_cases v s with ⟨-, h⟩ | ⟨-, h⟩ <;> rw [h]
    · exact ⟨hhist, hline, hchan, hcell⟩
    · obtain ⟨line, hw, hu⟩ := rvbStep_unit s.geo.extremum s.rvb v s.free
      refine ⟨hhist, by rw [hu]; exact hw hline, hchan, ?_⟩
      rw [congrArg RvbUnit.lineLen hu]
      refine forall_line_rvbStep (Q := (· < Config.nLines * s.rvb.lineLen.toNat)) s.geo.extremum v s.free
        hcell fun j hj => ?_
      calc j * s.rvb.lineLen.toNat + s.rvb.cursor.toNat
          < j * s.rvb.lineLen.toNat + s.rvb.lineLen.toNat := Nat.add_lt_add_left hcursor _
        _ = (j + 1) * s.rvb.lineLen.toNat := (Nat.succ_mul _ _).symm
        _ ≤ Config.nLines * s.rvb.lineLen.toNat := Nat.mul_le_mul_right _ hj

/-! ### Lifecycle and framing in each phase -/

theorem lifecycleOk_of_active {s : State} (hact : s.phase = .active) :
    s.lifecycleOk ↔ s.cursorOk := by
  unfold State.lifecycleOk State.cursorOk
  rw [hact]
  exact ⟨fun h => h.2, fun h => ⟨Nat.one_le_of_lt h, h⟩⟩

theorem lifecycleOk_of_idle {s : State} (hidle : s.phase = .idle) :
    s.lifecycleOk ↔
      s.bq.hist = [] ∧ s.cmp.env = 0 ∧ s.cmp.gr = 0 ∧ s.rvb.lineLen = 0 ∧ s.rvb.cursor = 0 ∧
        s.rvb.line = [] ∧ s.seek.pos = 0 ∧ s.seek.pend = none ∧ s.seek.left = [] := by
  unfold State.lifecycleOk
  rw [hidle]

theorem one_le_byteWidth (g : Geometry) : 1 ≤ g.byteWidth := by
  unfold Geometry.byteWidth
  cases g.bitdepth <;> decide

theorem chans_le_frameBytes (g : Geometry) : g.chans ≤ g.frameBytes :=
  Nat.le_mul_of_pos_left _ (one_le_byteWidth g)

/-- In IDLE there is nothing to frame. -/
theorem framingOk_of_idle {s : State} (hidle : s.phase = .idle) (hlife : s.lifecycleOk)
    (hchans : 1 ≤ s.geo.chans) : s.framingOk := by
  obtain ⟨-, -, -, -, -, -, -, hpend, hleft⟩ := (lifecycleOk_of_idle hidle).1 hlife
  refine ⟨hlife, hchans, ?_, ?_⟩
  · rw [hleft]
    exact hchans.trans (chans_le_frameBytes s.geo)
  · rw [hpend]
    exact nofun

theorem storesOk_of_empty {s : State} (hhist : s.bq.hist = []) (hline : s.rvb.line = []) :
    s.storesOk := by
  unfold State.storesOk
  rw [hhist, hline]
  exact ⟨Memory.wf_nil, Memory.wf_nil, nofun, nofun⟩

/-! ### Teardown and instantiation -/

theorem teardown_lifecycleOk {s : State} (h : s.lifecycleOk) : s.teardown.lifecycleOk := by
  cases hp : s.phase with
  | idle => rwa [State.teardown_of_idle hp]
  | active =>
    rw [State.teardown_of_active hp]
    exact ⟨rfl, rfl, rfl, rfl, rfl, rfl, rfl, rfl, rfl⟩

theorem teardown_framingOk {s : State} (h : s.framingOk) : s.teardown.framingOk := by
  obtain ⟨hlife, hchans, -⟩ := h
  exact framingOk_of_idle s.teardown_phase (teardown_lifecycleOk hlife) (by simpa using hchans)

theorem idle_storesOk {s : State} (hidle : s.phase = .idle) (hlife : s.lifecycleOk) : s.storesOk := by
  obtain ⟨hhist, -, -, -, -, hline, -⟩ := (lifecycleOk_of_idle hidle).1 hlife
  exact storesOk_of_empty hhist hline

theorem one_le_lineLen (g : Geometry) : 1 ≤ g.lineLen.toNat := by
  have := g.rate.isLt
  unfold Geometry.lineLen
  rw [BitVec.toNat_ofNat]
  omega

theorem instantiate_framingOk {s : State} (hchans : 1 ≤ s.geo.chans) : s.instantiate.framingOk := by
  refine ⟨?_, hchans, hchans.trans (chans_le_frameBytes s.geo), nofun⟩
  rw [lifecycleOk_of_active s.instantiate_phase]
  exact one_le_lineLen s.geo

/-! ### Setters -/

theorem Setting.lifecycleOk {s u : State} {i : Instr} {v : Word} (h : Setting s i u v)
    (hs : s.lifecycleOk) : u.lifecycleOk := by
  have hrun : u.running.lifecycleOk := by rw [h.running_eq]; exact hs
  exact hrun

theorem Setting.one_le_chans {s u : State} {i : Instr} {v : Word} (h : Setting s i u v)
    (hs : 1 ≤ s.geo.chans) : 1 ≤ u.geo.chans := by
  cases h with
  | channels _ hv =>
    obtain ⟨⟨hlow, -⟩, rfl⟩ := channelsOperand_eq_ok.1 hv
    exact hlow
  | _ => exact hs

/-- While ACTIVE a setter moves neither the channel count nor the frame size. -/
theorem Setting.frame_eq {s u : State} {i : Instr} {v : Word} (h : Setting s i u v)
    (hact : s.phase = .active) : u.geo.chans = s.geo.chans ∧ u.geo.frameBytes = s.geo.frameBytes := by
  obtain ⟨hdepth, -, hchannels⟩ := h.locked hact
  simp only [Geometry.frameBytes, Geometry.byteWidth, Geometry.chans, hdepth, hchannels, and_self]

theorem Setting.framingOk {s u : State} {i : Instr} {v : Word} (h : Setting s i u v)
    (hs : s.framingOk) : u.framingOk := by
  obtain ⟨hlife, hchans, hleft, hpend⟩ := hs
  cases hp : s.phase with
  | idle => exact framingOk_of_idle (h.phase_eq.trans hp) (h.lifecycleOk hlife) (h.one_le_chans hchans)
  | active =>
    obtain ⟨hchans_eq, hframe_eq⟩ := h.frame_eq hp
    refine ⟨h.lifecycleOk hlife, h.one_le_chans hchans, ?_, ?_⟩
    · rw [hframe_eq, h.left_eq]
      exact hleft
    · rw [hchans_eq, h.pend_eq, h.pos_eq]
      exact hpend

theorem Setting.storesOk {s u : State} {i : Instr} {v : Word} (h : Setting s i u v)
    (hlife : s.lifecycleOk) (hs : s.storesOk) : u.storesOk := by
  cases hp : s.phase with
  | idle => exact idle_storesOk (h.phase_eq.trans hp) (h.lifecycleOk hlife)
  | active =>
    unfold State.storesOk
    rw [(h.frame_eq hp).1, h.hist_eq, h.line_eq, h.lineLen_eq]
    exact hs

/-! ### PUSH, END and SEEK -/

theorem pushChunk_framingOk {s : State} (payload : List Byte) (hact : s.phase = .active)
    (hs : s.framingOk) : (pushChunk payload s).framingOk := by
  obtain ⟨hlife, hchans, -, hpend⟩ := hs
  have hframe : 0 < s.geo.frameBytes := hchans.trans (chans_le_frameBytes s.geo)
  refine ⟨?_, by simpa using hchans, ?_, ?_⟩
  · rw [lifecycleOk_of_active ((pushChunk_phase payload s).trans hact)]
    exact cursorOk_stages.push (fun _ _ hs => hs) (fun _ _ hs => hs) payload hchans
      ((lifecycleOk_of_active hact).1 hlife)
  · rw [pushChunk_seek, pushChunk_geo]
    exact track_left_lt _ _ _ hframe
  · rw [pushChunk_seek, pushChunk_geo]
    rcases track_cases s.geo s.seek (s.seek.left ++ payload) with
      ⟨hnone, h⟩ | ⟨p, hp, hle, h⟩ | ⟨_, -, -, h⟩ <;> rw [h]
    · simp [hnone]
    · intro q hq
      obtain ⟨-, hdvd⟩ := hpend q hq
      obtain rfl : p = q := Option.some.inj (hp.symm.trans hq)
      exact ⟨by rw [BitVec.toNat_ofNat]; exact (Nat.mod_le _ _).trans hle, hdvd⟩
    · exact nofun

theorem pushChunk_storesOk {s : State} (payload : List Byte) (hact : s.phase = .active)
    (hlife : s.lifecycleOk) (hchans : 1 ≤ s.geo.chans) (hs : s.storesOk) :
    (pushChunk payload s).storesOk :=
  (storesOk_stages.push (fun _ _ hs => hs) (fun _ _ hs => hs) payload hchans
    ⟨(lifecycleOk_of_active hact).1 hlife, hs⟩).2

/-- With less than a frame left over, END has nothing to flush (R403, R153). -/
theorem flushLeftover_eq {s : State} (h : s.seek.left.length < s.geo.frameBytes) :
    flushLeftover s = s := by
  unfold flushLeftover
  rw [Nat.div_eq_of_lt h]
  rfl

theorem seekTarget_le (chans frames : Nat) : seekTarget chans frames ≤ 2 ^ 64 - 1 := by
  unfold seekTarget
  split
  · exact Nat.div_mul_le_self _ _
  · omega

theorem dvd_seekTarget (chans frames : Nat) : chans ∣ seekTarget chans frames := by
  unfold seekTarget
  split <;> exact Nat.dvd_mul_left _ _

theorem dvd_seekGoal (s : State) (v : F64) : s.geo.chans ∣ (s.seekGoal v).toNat := by
  unfold State.seekGoal
  rw [BitVec.toNat_ofNat, Nat.mod_eq_of_lt (Nat.lt_of_le_pred (by decide) (seekTarget_le _ _))]
  exact dvd_seekTarget _ _

/-- The two ways a seek moves: the position back, or a target ahead. -/
theorem movedTo_cases (u : SeekUnit) (target : Word) :
    (u.movedTo target = { u with pos := target, pend := none, left := [] }) ∨
      (u.pos.toNat ≤ target.toNat ∧ u.movedTo target = { u with pend := some target }) := by
  unfold SeekUnit.movedTo
  split
  · exact .inl rfl
  · exact .inr ⟨by omega, rfl⟩

theorem framingOk_of_moved {s t : State} {v : F64} (hact : s.phase = .active) (hs : s.framingOk)
    (hphase : t.phase = s.phase) (hgeo : t.geo = s.geo) (hrvb : t.rvb = s.rvb)
    (hseek : t.seek = s.seek.movedTo (s.seekGoal v)) : t.framingOk := by
  obtain ⟨hlife, hchans, hleft, -⟩ := hs
  unfold State.framingOk
  rw [lifecycleOk_of_active (hphase.trans hact), State.cursorOk, hrvb, hgeo, hseek]
  have hcursor := (lifecycleOk_of_active hact).1 hlife
  rcases movedTo_cases s.seek (s.seekGoal v) with h | ⟨hle, h⟩ <;> rw [h]
  · exact ⟨hcursor, hchans, hchans.trans (chans_le_frameBytes s.geo), nofun⟩
  · refine ⟨hcursor, hchans, hleft, ?_⟩
    rintro p ⟨⟩
    exact ⟨hle, dvd_seekGoal s v⟩

/-! ### The lifecycle, the framing and the cell stores -/

theorem reset_framingOk : State.reset.framingOk :=
  framingOk_of_idle rfl ⟨rfl, rfl, rfl, rfl, rfl, rfl, rfl, rfl, rfl⟩ (by decide)

theorem Effect.framingOk {s t : State} {i : Instr} (h : Effect s i t) (hs : s.framingOk) :
    t.framingOk := by
  cases h with
  | accepted _ hset => exact hset.framingOk hs
  | create =>
    obtain ⟨-, hchans, -⟩ := hs
    exact instantiate_framingOk (s := s.teardown) (by simpa using hchans)
  | destroy | closed | ioFailure => exact teardown_framingOk hs
  | finish =>
    obtain ⟨-, -, hleft, -⟩ := id hs
    rw [flushLeftover_eq hleft]
    exact teardown_framingOk hs
  | push hact => exact pushChunk_framingOk _ hact hs
  | seekMoves hact => exact framingOk_of_moved hact hs rfl rfl rfl rfl
  | reset => exact reset_framingOk
  | _ => exact hs

theorem Effect.storesOk {s t : State} {i : Instr} (h : Effect s i t) (hs : s.framingOk)
    (hstores : s.storesOk) : t.storesOk := by
  obtain ⟨hlife, hchans, hleft, -⟩ := id hs
  cases h with
  | accepted _ hset => exact hset.storesOk hlife hstores
  | create => exact storesOk_of_empty rfl rfl
  | destroy | closed | ioFailure => exact idle_storesOk s.teardown_phase (teardown_lifecycleOk hlife)
  | finish =>
    rw [flushLeftover_eq hleft]
    exact idle_storesOk s.teardown_phase (teardown_lifecycleOk hlife)
  | push hact => exact pushChunk_storesOk _ hact hlife hchans hstores
  | reset => exact storesOk_of_empty rfl rfl
  | _ => exact hstores

/-- Settles O54: the framing by itself, the cell stores with the framing's help. -/
theorem cellsInvariantKept : Obligations.CellsInvariantKept := by
  intro s t hs h
  refine step_keeps (P := State.cellsOk) (fun _ _ hs => hs) (fun _ _ _ hs => hs) ?_ hs h
  intro i s t heff hs
  obtain ⟨hframing, hstores⟩ := (State.cellsOk_iff s).1 hs
  exact ⟨heff.framingOk hframing, heff.storesOk hframing hstores⟩

/-! ### The position -/

theorem track_pos (g : Geometry) (u : SeekUnit) (buf : List Byte) :
    (track g u buf).2.pos =
      BitVec.ofNat 64 (u.pos.toNat + buf.length / g.frameBytes * g.chans) := by
  rcases track_cases g u buf with ⟨-, h⟩ | ⟨p, -, -, h⟩ | ⟨p, -, -, h⟩ <;> rw [h]

/-- A chunk moves the position by whole frames, by at most as many samples as it has bytes. -/
theorem dvd_track_pos {g : Geometry} {u : SeekUnit} {buf : List Byte} (hdvd : g.chans ∣ u.pos.toNat)
    (hlen : u.pos.toNat + buf.length < 2 ^ 64) : g.chans ∣ (track g u buf).2.pos.toNat := by
  have hmoved : buf.length / g.frameBytes * g.chans ≤ buf.length :=
    (Nat.mul_le_mul_left _ (chans_le_frameBytes g)).trans (Nat.div_mul_le_self _ _)
  rw [track_pos, BitVec.toNat_ofNat, Nat.mod_eq_of_lt (by omega)]
  exact dvd_add hdvd (Nat.dvd_mul_left _ _)

theorem dvd_pos_of_idle {s : State} (hidle : s.phase = .idle) (hlife : s.lifecycleOk) :
    s.geo.chans ∣ s.seek.pos.toNat := by
  obtain ⟨-, -, -, -, -, -, hpos, -⟩ := (lifecycleOk_of_idle hidle).1 hlife
  rw [hpos]
  exact dvd_zero _

/-- The position stays a multiple of CHANNELS, if a PUSH does not bring the bytes to take it past
2^64. -/
theorem Effect.dvd_pos {s t : State} {i : Instr} (h : Effect s i t) (hs : s.framingOk)
    (hdvd : s.geo.chans ∣ s.seek.pos.toNat)
    (hpush : ∀ payload, i = .ctlPush payload →
      s.seek.pos.toNat + s.seek.left.length + payload.length < 2 ^ 64) :
    t.geo.chans ∣ t.seek.pos.toNat := by
  obtain ⟨hlife, -, hleft, -⟩ := id hs
  cases h with
  | accepted _ hset =>
    cases hp : s.phase with
    | idle => exact dvd_pos_of_idle (hset.phase_eq.trans hp) (hset.lifecycleOk hlife)
    | active =>
      have hu := hdvd
      rw [← (hset.frame_eq hp).1, ← hset.pos_eq] at hu
      exact hu
  | create => exact dvd_zero _
  | destroy | closed | ioFailure => exact dvd_pos_of_idle s.teardown_phase (teardown_lifecycleOk hlife)
  | finish =>
    rw [flushLeftover_eq hleft]
    exact dvd_pos_of_idle s.teardown_phase (teardown_lifecycleOk hlife)
  | @push payload hact =>
    have hlen := hpush payload rfl
    show (pushChunk payload s).geo.chans ∣ (pushChunk payload s).seek.pos.toNat
    rw [pushChunk_seek, pushChunk_geo]
    exact dvd_track_pos hdvd (by rw [List.length_append]; omega)
  | @seekMoves v =>
    show s.geo.chans ∣ (s.seek.movedTo (s.seekGoal v)).pos.toNat
    rcases movedTo_cases s.seek (s.seekGoal v) with h | ⟨-, h⟩ <;> rw [h]
    · exact dvd_seekGoal s v
    · exact hdvd
  | reset => exact dvd_zero _
  | _ => exact hdvd

/-! ### The bytes of a PUSH come off the port -/

theorem takeCommand_payload_le {bs rest : List Byte} {c : Command}
    (h : takeCommand bs = some (c, rest)) : c.payload.length ≤ bs.length := by
  unfold takeCommand at h
  split at h
  · cases h
  · dsimp only at h
    split at h
    · cases h
    · cases h
      simp only [List.length_take, List.length_drop]
      omega

/-- PUSH's row alone builds a PUSH, with the command's own payload. -/
theorem build_push {unit op : Nat} {rows : Nat → Option OpcodeRow} {r : OpcodeRow} {c : Command}
    {payload : List Byte} (hrows : unitRows unit = some rows) (hr : rows op = some r)
    (hb : r.build c = .ctlPush payload) : payload = c.payload := by
  unfold unitRows at hrows
  split at hrows <;> cases hrows
  · unfold ctlRow at hr
    split at hr <;> cases hr <;> cases hb
    rfl
  · unfold bqRow at hr
    split at hr <;> cases hr <;> cases hb
  · unfold cmpRow at hr
    split at hr <;> cases hr <;> cases hb
  · unfold rvbRow at hr
    split at hr <;> cases hr <;> cases hb
  · unfold volRow at hr
    split at hr <;> cases hr <;> cases hb
  · unfold seekRow at hr
    split at hr <;> cases hr <;> cases hb

theorem decodeCommand_push {c : Command} {payload : List Byte}
    (h : decodeCommand c = .ok (.ctlPush payload)) : payload = c.payload := by
  unfold decodeCommand at h
  split at h
  · cases h
  next rows hrows =>
    split at h
    · cases h
    next r hr =>
      split at h
      · cases h
      · split at h
        · cases h
        · split at h
          · cases h
          · exact build_push hrows hr (Except.ok.inj h)

/-- Settles O57: the bytes a PUSH brings are bytes of the port. -/
theorem positionInvariantKept : Obligations.PositionInvariantKept := by
  intro s t hs hdvd hlen h
  obtain ⟨c, rest, htake, ⟨e, -, rfl⟩ | ⟨i, hdec, heff⟩⟩ := step_cases h
  · exact ⟨hs, hdvd⟩
  · refine ⟨heff.framingOk hs, heff.dvd_pos hs hdvd ?_⟩
    rintro payload rfl
    have hpay := takeCommand_payload_le htake
    rw [decodeCommand_push hdec]
    show s.seek.pos.toNat + s.seek.left.length + c.payload.length < 2 ^ 64
    omega

end Sys2Proof.Machine
end

section
/-!
The statements about one step of the decoder, about reset and about the register map.
-/

namespace Sys2Proof.Machine

/-! ### Step and reset -/

/-- Settles O6: `step` and `decode` take the same command off the port. -/
theorem stepRunsDecodedCommand : Obligations.StepRunsDecodedCommand := by
  intro s i rest h
  unfold decode at h
  split at h
  · cases h
  next c rest' htake =>
    split at h
    · cases h
    next j hdec =>
      cases h
      unfold step
      rw [htake]
      simp only [hdec]

/-- Settles O12. -/
theorem invariantsHoldAtReset : Obligations.InvariantsHoldAtReset :=
  ⟨⟨reset_framingOk, storesOk_of_empty rfl rfl⟩, reset_paramsOk, reset_derivedOk,
    fun hne => absurd rfl hne, dvd_zero _⟩

/-! ### The register map -/

theorem readReg_byteWidth (s : State) : s.readReg 0x0014 = some (s.geo.bitdepth.code / 8) := by
  show some (BitVec.ofNat 64 s.geo.bitdepth.bytes) = _
  cases s.geo.bitdepth <;> decide

theorem readReg_extremum (s : State) :
    s.readReg 0x0015 = some (if s.geo.bitdepth = .b16 then 32768 else 2147483648) := by
  show some (BitVec.ofNat 64 s.geo.bitdepth.ext) = _
  cases s.geo.bitdepth <;> decide

theorem readReg_frameBytes (s : State) :
    s.readReg 0x0016 = some (s.geo.bitdepth.code / 8 * s.geo.channels) := by
  have hwidth : BitVec.ofNat 64 s.geo.byteWidth = s.geo.bitdepth.code / 8 :=
    Option.some.inj (readReg_byteWidth s)
  show some (BitVec.ofNat 64 (s.geo.byteWidth * s.geo.channels.toNat)) = _
  rw [BitVec.ofNat_mul, hwidth, BitVec.ofNat_toNat, BitVec.setWidth_eq]

/-- The history of a channel the geometry has stands at 0x4000 + 4c (R122). -/
theorem readReg_history (s : State) {c k : Nat} (hc : c < s.geo.chans) (hlt : c < 4096) (hk : k < 4) :
    s.readReg (BitVec.ofNat 16 (0x4000 + 4 * c + k)) = some (s.bq.hist.read (4 * c + k)) := by
  have haddr : (BitVec.ofNat 16 (0x4000 + 4 * c + k)).toNat = 0x4000 + (4 * c + k) := by
    rw [BitVec.toNat_ofNat]
    omega
  unfold State.readReg State.readHistory
  rw [haddr, if_pos (Nat.le_add_right _ _), Nat.add_sub_cancel_left, if_pos (by omega)]

/-- Settles O27: the derived geometry and the history by their own lemmas, every other address by its
place in the map. -/
theorem registerMap : Obligations.RegisterMap := by
  refine ⟨⟨rfl, rfl, rfl, rfl, rfl, rfl, rfl, rfl, rfl, rfl, rfl, rfl, rfl, rfl⟩,
    ⟨rfl, rfl, rfl, rfl, rfl, rfl, rfl, rfl, rfl, rfl, rfl⟩, ⟨rfl, rfl, rfl, rfl, rfl, rfl⟩,
    fun s => ⟨?_, ?_, ?_, ?_, ?_, fun c k hc hlt hk => readReg_history s hc hlt hk⟩⟩
  · exact ⟨rfl, rfl, rfl, rfl, rfl, rfl, rfl, rfl, readReg_byteWidth s, readReg_extremum s,
      readReg_frameBytes s⟩
  · exact ⟨rfl, rfl, rfl, rfl, rfl, rfl, rfl, rfl, rfl, rfl, rfl⟩
  · exact ⟨rfl, rfl, rfl, rfl, rfl, rfl, rfl, rfl, rfl, rfl, rfl⟩
  · exact ⟨rfl, rfl, rfl, rfl, rfl, rfl, rfl, rfl, rfl⟩
  · exact ⟨rfl, rfl, rfl, rfl, rfl, rfl, rfl, rfl⟩

end Sys2Proof.Machine
end

section
/-!
The opcode map and the decoder (30_encoding.md): the rows by unit and operation and their five forms, what
the decoder accepts and what it refuses, and the rows as match and mask.
-/

namespace Sys2Proof

open Machine

/-! ### The opcode map by unit and operation -/

/-- The row of the opcode map at a unit and an operation; none where one of them is reserved. -/
def opcodeRow (unit op : Nat) : Option OpcodeRow := (unitRows unit).bind fun rows => rows op

theorem opCount_of_reserved {unit : Nat} (h : 6 ≤ unit) : opCount unit = 0 := by
  unfold opCount
  exact List.getD_eq_default _ _ h

theorem unit_lt_of_op_lt {unit op : Nat} (h : op < opCount unit) : unit < 6 := by
  by_contra hge
  rw [opCount_of_reserved (Nat.le_of_not_lt hge)] at h
  exact Nat.not_lt_zero op h

theorem unitRows_eq_none_iff {unit : Nat} : unitRows unit = none ↔ 6 ≤ unit := by
  match unit with
  | 0 | 1 | 2 | 3 | 4 | 5 => simp [unitRows]
  | k + 6 => simp [unitRows]

theorem opcodeRow_eq_none {unit op : Nat} (h : opCount unit ≤ op) : opcodeRow unit op = none := by
  match unit with
  | 0 | 1 | 2 | 3 | 4 | 5 =>
    obtain ⟨k, rfl⟩ := Nat.exists_eq_add_of_le' h
    rfl
  | k + 6 => rfl

theorem opcodeRow_isSome : ∀ unit < 6, ∀ op < opCount unit, (opcodeRow unit op).isSome := by decide

theorem exists_opcodeRow_iff {unit op : Nat} :
    (∃ row, opcodeRow unit op = some row) ↔ op < opCount unit := by
  constructor
  · rintro ⟨row, hrow⟩
    by_contra hge
    rw [opcodeRow_eq_none (Nat.le_of_not_lt hge)] at hrow
    cases hrow
  · intro h
    exact Option.isSome_iff_exists.1 (opcodeRow_isSome unit (unit_lt_of_op_lt h) op h)

/-! ### The forms of a row -/

/-- The forms of a row, with the encoder's side of the plain ones: a command without operand, a command
that is its operand word, and the three rows that carry more than that (R302, R303). -/
inductive RowForm : Nat → Nat → OpcodeRow → Prop
  | bare {unit op : Nat} {i : Instr} (hplain : ¬ (unit = 0 ∧ op ∈ [3, 5, 6]))
      (hwf : i.wf = true) (henc : toCommand i = shortCommand unit op 0) :
      RowForm unit op (plainRow .none fun _ => i)
  | word {unit op : Nat} {kind : OperandKind} {f : Word → Instr} (hplain : ¬ (unit = 0 ∧ op ∈ [3, 5, 6]))
      (hwf : ∀ v, (f v).wf = true) (henc : ∀ v, toCommand (f v) = shortCommand unit op v) :
      RowForm unit op (plainRow kind fun c => f c.opnd)
  | push : RowForm 0 3 (plainRow .len fun c => .ctlPush c.payload)
  | streamError : RowForm 0 5 ⟨.none, 1, false, fun c =>
      .ctlStreamError (if cwSub c.cw = 0 then .prematureClose else .ioFailure)⟩
  | readReg : RowForm 0 6 ⟨.none, 0, true, fun c => .ctlReadReg (BitVec.ofNat 16 (cwImm c.cw))⟩

theorem rowForm_of_unitRows {unit op : Nat} {rows : Nat → Option OpcodeRow} {row : OpcodeRow}
    (hrows : unitRows unit = some rows) (hrow : rows op = some row) : RowForm unit op row := by
  unfold unitRows at hrows
  split at hrows <;> cases hrows
  case h_1 =>
    unfold ctlRow at hrow
    split at hrow <;> cases hrow
    case h_4 => exact .push
    case h_6 => exact .streamError
    case h_7 => exact .readReg
    case h_10 | h_11 | h_12 | h_13 => exact .word (by decide) (fun _ => rfl) (fun _ => rfl)
    all_goals exact .bare (by decide) rfl rfl
  case h_2 =>
    unfold bqRow at hrow
    split at hrow <;> cases hrow
    case h_1 | h_2 | h_3 | h_4 => exact .word (by decide) (fun _ => rfl) (fun _ => rfl)
    all_goals exact .bare (by decide) rfl rfl
  case h_3 =>
    unfold cmpRow at hrow
    split at hrow <;> cases hrow
    case h_7 | h_8 => exact .bare (by decide) rfl rfl
    all_goals exact .word (by decide) (fun _ => rfl) (fun _ => rfl)
  case h_4 =>
    unfold rvbRow at hrow
    split at hrow <;> cases hrow
    case h_5 | h_6 => exact .bare (by decide) rfl rfl
    all_goals exact .word (by decide) (fun _ => rfl) (fun _ => rfl)
  case h_5 =>
    unfold volRow at hrow
    split at hrow <;> cases hrow
    case h_1 => exact .word (by decide) (fun _ => rfl) (fun _ => rfl)
    all_goals exact .bare (by decide) rfl rfl
  case h_6 =>
    unfold seekRow at hrow
    split at hrow <;> cases hrow
    all_goals exact .word (by decide) (fun _ => rfl) (fun _ => rfl)

theorem opcodeRow_form {unit op : Nat} {row : OpcodeRow} (h : opcodeRow unit op = some row) :
    RowForm unit op row := by
  obtain ⟨rows, hrows, hrow⟩ := Option.bind_eq_some_iff.1 h
  exact rowForm_of_unitRows hrows hrow

/-- Which SUB a row takes (R303, R316). -/
theorem RowForm.maxSub_eq {unit op : Nat} {row : OpcodeRow} (h : RowForm unit op row) :
    row.maxSub = if unit = 0 ∧ op = 5 then 1 else 0 := by
  cases h with
  | bare hplain | word hplain => exact (if_neg fun ⟨hunit, hop⟩ => hplain ⟨hunit, by simp [hop]⟩).symm
  | push | streamError | readReg => rfl

/-- READ_REG's row alone has an address in IMM16 (R303, R316). -/
theorem RowForm.immIsAddr_iff {unit op : Nat} {row : OpcodeRow} (h : RowForm unit op row) :
    row.immIsAddr = true ↔ unit = 0 ∧ op = 6 := by
  cases h with
  | bare hplain | word hplain =>
    exact iff_of_false Bool.false_ne_true fun ⟨hunit, hop⟩ => hplain ⟨hunit, by simp [hop]⟩
  | push | streamError | readReg => decide

/-! ### What the decoder accepts and what it refuses (R320, R322) -/

/-- SUB is one that the word's unit and operation take: R322's third check. -/
def SubOk (cw : BitVec 32) : Prop := cwSub cw ≤ if cwUnit cw = 0 ∧ cwOp cw = 5 then 1 else 0

/-- IMM16 is 0, or READ_REG's address: R322's fourth check. -/
def ImmOk (cw : BitVec 32) : Prop := (cwUnit cw = 0 ∧ cwOp cw = 6) ∨ cwImm cw = 0

theorem subOk_iff {cw : BitVec 32} {row : OpcodeRow} (h : opcodeRow (cwUnit cw) (cwOp cw) = some row) :
    SubOk cw ↔ cwSub cw ≤ row.maxSub := by
  rw [SubOk, (opcodeRow_form h).maxSub_eq]

theorem immOk_iff {cw : BitVec 32} {row : OpcodeRow} (h : opcodeRow (cwUnit cw) (cwOp cw) = some row) :
    ImmOk cw ↔ row.immIsAddr = true ∨ cwImm cw = 0 := by
  rw [ImmOk, (opcodeRow_form h).immIsAddr_iff]

/-- `row` is the row of a command word's unit and operation, and SUB and IMM16 are as the row has them. -/
structure RowOf (cw : BitVec 32) (row : OpcodeRow) : Prop where
  row_eq : opcodeRow (cwUnit cw) (cwOp cw) = some row
  sub_le : cwSub cw ≤ row.maxSub
  imm_ok : row.immIsAddr = true ∨ cwImm cw = 0

theorem decodeCommand_of_reservedUnit {c : Command} (h : 6 ≤ cwUnit c.cw) :
    decodeCommand c = .error .reservedUnit := by
  unfold decodeCommand
  rw [unitRows_eq_none_iff.2 h]

theorem decodeCommand_of_reservedOp {c : Command} (hunit : cwUnit c.cw < 6)
    (hop : opCount (cwUnit c.cw) ≤ cwOp c.cw) : decodeCommand c = .error .reservedOp := by
  obtain ⟨rows, hrows⟩ := Option.ne_none_iff_exists'.1 (mt unitRows_eq_none_iff.1 (Nat.not_le.2 hunit))
  have hrow := opcodeRow_eq_none hop
  rw [opcodeRow, hrows] at hrow
  unfold decodeCommand
  rw [hrows]
  simp only [show rows (cwOp c.cw) = none from hrow]

/-- At a row, the checks that are left. -/
theorem decodeCommand_of_row {c : Command} {row : OpcodeRow}
    (h : opcodeRow (cwUnit c.cw) (cwOp c.cw) = some row) :
    decodeCommand c =
      if row.maxSub < cwSub c.cw then .error .badSub
      else if row.immIsAddr = false ∧ cwImm c.cw ≠ 0 then .error .badImm
      else if operandAllowed row.kind c.opnd = false then .error .badOperand
      else .ok (row.build c) := by
  obtain ⟨rows, hrows, hrow⟩ := Option.bind_eq_some_iff.1 h
  unfold decodeCommand
  rw [hrows]
  simp only [hrow]

theorem decodeCommand_of_rowOf {c : Command} {row : OpcodeRow} (h : RowOf c.cw row) :
    decodeCommand c =
      if operandAllowed row.kind c.opnd = false then .error .badOperand else .ok (row.build c) := by
  have himm : ¬ (row.immIsAddr = false ∧ cwImm c.cw ≠ 0) := by
    rcases h.imm_ok with haddr | hzero
    · simp [haddr]
    · simp [hzero]
  rw [decodeCommand_of_row h.row_eq, if_neg (Nat.not_lt.2 h.sub_le), if_neg himm]

/-- The outcomes of the decoder, in the order of its checks (R322). -/
theorem decodeCommand_cases (c : Command) :
    (6 ≤ cwUnit c.cw ∧ decodeCommand c = .error .reservedUnit) ∨
      (cwUnit c.cw < 6 ∧ opCount (cwUnit c.cw) ≤ cwOp c.cw ∧ decodeCommand c = .error .reservedOp) ∨
      cwOp c.cw < opCount (cwUnit c.cw) ∧
        ((¬ SubOk c.cw ∧ decodeCommand c = .error .badSub) ∨
          (SubOk c.cw ∧ ¬ ImmOk c.cw ∧ decodeCommand c = .error .badImm) ∨
          (SubOk c.cw ∧ ImmOk c.cw ∧ ∃ row, RowOf c.cw row)) := by
  rcases Nat.lt_or_ge (cwOp c.cw) (opCount (cwUnit c.cw)) with hop | hop
  · obtain ⟨row, hrow⟩ := exists_opcodeRow_iff.2 hop
    refine .inr (.inr ⟨hop, ?_⟩)
    by_cases hsub : SubOk c.cw
    · by_cases himm : ImmOk c.cw
      · exact .inr (.inr ⟨hsub, himm, row, hrow, (subOk_iff hrow).1 hsub, (immOk_iff hrow).1 himm⟩)
      · refine .inr (.inl ⟨hsub, himm, ?_⟩)
        rw [immOk_iff hrow, not_or, Bool.not_eq_true] at himm
        rw [decodeCommand_of_row hrow, if_neg (Nat.not_lt.2 ((subOk_iff hrow).1 hsub)), if_pos himm]
    · refine .inl ⟨hsub, ?_⟩
      rw [subOk_iff hrow, Nat.not_le] at hsub
      rw [decodeCommand_of_row hrow, if_pos hsub]
  · rcases Nat.lt_or_ge (cwUnit c.cw) 6 with hunit | hunit
    · exact .inr (.inl ⟨hunit, hop, decodeCommand_of_reservedOp hunit hop⟩)
    · exact .inl ⟨hunit, decodeCommand_of_reservedUnit hunit⟩

/-- Past the checks of the command word stands a row, and the operand alone decides. -/
theorem exists_rowOf_of_decodeCommand {c : Command}
    (h : decodeCommand c = .error .badOperand ∨ ∃ i, decodeCommand c = .ok i) :
    ∃ row, RowOf c.cw row := by
  obtain ⟨-, e⟩ | ⟨-, -, e⟩ | ⟨-, ⟨-, e⟩ | ⟨-, -, e⟩ | ⟨-, -, hrow⟩⟩ := decodeCommand_cases c
  case inr.inr.inr.inr => exact hrow
  all_goals simp [e] at h

theorem decodeCommand_eq_ok_iff {c : Command} {i : Instr} :
    decodeCommand c = .ok i ↔
      ∃ row, RowOf c.cw row ∧ operandAllowed row.kind c.opnd = true ∧ row.build c = i := by
  constructor
  · intro h
    obtain ⟨row, hrow⟩ := exists_rowOf_of_decodeCommand (.inr ⟨i, h⟩)
    rw [decodeCommand_of_rowOf hrow] at h
    split at h
    · cases h
    next hallowed => exact ⟨row, hrow, by simpa using hallowed, Except.ok.inj h⟩
  · rintro ⟨row, hrow, hallowed, rfl⟩
    rw [decodeCommand_of_rowOf hrow, if_neg (by simp [hallowed])]

theorem decodeCommand_eq_badOperand_iff {c : Command} :
    decodeCommand c = .error .badOperand ↔
      ∃ row, RowOf c.cw row ∧ operandAllowed row.kind c.opnd = false := by
  constructor
  · intro h
    obtain ⟨row, hrow⟩ := exists_rowOf_of_decodeCommand (.inl h)
    rw [decodeCommand_of_rowOf hrow] at h
    split at h
    next hallowed => exact ⟨row, hrow, hallowed⟩
    · cases h
  · rintro ⟨row, hrow, hallowed⟩
    rw [decodeCommand_of_rowOf hrow, if_pos hallowed]

/-! ### The rows as match and mask (R316) -/

/-- The bits of CW that a row leaves free. -/
def OpcodeRow.freeBits (row : OpcodeRow) : BitVec 32 :=
  BitVec.ofNat 32 (row.maxSub * 2 ^ 16 + if row.immIsAddr then 2 ^ 16 - 1 else 0)

/-- A row of the opcode map as a row of the opcode table. -/
def OpcodeRow.toTableRow (unit op : Nat) (row : OpcodeRow) : TableRow :=
  ⟨~~~row.freeBits, commandWord unit op 0 0, row.kind⟩

/-- The opcode table is the opcode map, unit by unit and operation by operation. -/
theorem opcodeTable_eq :
    opcodeTable = (List.range 6).flatMap fun unit => (List.range (opCount unit)).filterMap fun op =>
      (opcodeRow unit op).map (OpcodeRow.toTableRow unit op) := by decide

theorem mem_opcodeTable_iff {r : TableRow} :
    r ∈ opcodeTable ↔ ∃ unit op row, opcodeRow unit op = some row ∧ row.toTableRow unit op = r := by
  simp only [opcodeTable_eq, List.mem_flatMap, List.mem_range, List.mem_filterMap, Option.map_eq_some_iff]
  constructor
  · rintro ⟨unit, -, op, -, row, hrow, rfl⟩
    exact ⟨unit, op, row, hrow, rfl⟩
  · rintro ⟨unit, op, row, hrow, rfl⟩
    have hop := exists_opcodeRow_iff.1 ⟨row, hrow⟩
    exact ⟨unit, unit_lt_of_op_lt hop, op, hop, row, hrow, rfl⟩

/-- The free bits of a word, as the number its SUB and IMM16 make. -/
theorem RowForm.toNat_and_freeBits {unit op : Nat} {row : OpcodeRow} (h : RowForm unit op row)
    (cw : BitVec 32) :
    (cw &&& row.freeBits).toNat =
      cwSub cw % (row.maxSub + 1) * 2 ^ 16 + if row.immIsAddr then cwImm cw else 0 := by
  rw [BitVec.toNat_and]
  cases h with
  | bare | word | push => simp [plainRow, OpcodeRow.freeBits, Nat.mod_one]
  | streamError =>
    have hbit : cw.toNat &&& 2 ^ 16 = cw.toNat / 2 ^ 16 % 2 * 2 ^ 16 := by
      rw [Nat.and_two_pow, Nat.toNat_testBit]
    have hsub : cwSub cw % 2 = cw.toNat / 2 ^ 16 % 2 := Nat.mod_mod_of_dvd _ (by decide)
    simpa [OpcodeRow.freeBits, hsub] using hbit
  | readReg =>
    have himm : cw.toNat &&& 2 ^ 16 - 1 = cwImm cw := Nat.and_two_pow_sub_one_eq_mod _ 16
    simpa [OpcodeRow.freeBits, Nat.mod_one] using himm

/-- Masking the free bits off and adding them again gives the word back. -/
theorem toNat_and_not_add_and {w : Nat} (x y : BitVec w) :
    (x &&& ~~~y).toNat + (x &&& y).toNat = x.toNat := by
  have hdisj : (x &&& ~~~y) &&& (x &&& y) = 0#w := by
    ext i
    simp only [BitVec.getElem_and, BitVec.getElem_not, BitVec.getElem_zero]
    cases y[i] <;> simp
  have hjoin : (x &&& ~~~y) ||| (x &&& y) = x := by
    ext i
    simp [← Bool.and_or_distrib_left]
  rw [← BitVec.toNat_add_of_and_eq_zero hdisj, BitVec.add_eq_or_of_and_eq_zero _ _ hdisj, hjoin]

theorem opCount_le (unit : Nat) : opCount unit ≤ 14 := by
  rcases Nat.lt_or_ge unit 6 with h | h
  · revert unit
    decide
  · rw [opCount_of_reserved h]
    decide

/-- A command word is the sum of its fields, each below its own bound (R301). -/
theorem cw_eq_fields (cw : BitVec 32) :
    cw.toNat = cwUnit cw * 2 ^ 28 + cwOp cw * 2 ^ 24 + cwSub cw * 2 ^ 16 + cwImm cw ∧
      cwOp cw < 16 ∧ cwSub cw < 256 ∧ cwImm cw < 65536 := by
  unfold cwUnit cwOp cwSub cwImm
  omega

/-- The words a row of the table admits are those with its unit and operation, and with SUB and IMM16 as
the row has them. -/
theorem admits_toTableRow_iff {unit op : Nat} {row : OpcodeRow} (h : opcodeRow unit op = some row)
    (cw : BitVec 32) :
    (row.toTableRow unit op).admits cw = true ↔
      cwUnit cw = unit ∧ cwOp cw = op ∧ cwSub cw ≤ row.maxSub ∧
        (row.immIsAddr = true ∨ cwImm cw = 0) := by
  have hop := exists_opcodeRow_iff.1 ⟨row, h⟩
  have hunit := unit_lt_of_op_lt hop
  have hcount := opCount_le unit
  have hvalue : (commandWord unit op 0 0).toNat = unit * 2 ^ 28 + op * 2 ^ 24 := by
    rw [commandWord_toNat (by omega) (by omega) (by omega) (by omega)]
    omega
  have hsum := toNat_and_not_add_and cw row.freeBits
  rw [(opcodeRow_form h).toNat_and_freeBits cw] at hsum
  obtain ⟨hcw, hop16, hsub256, himm65536⟩ := cw_eq_fields cw
  have hsub : cwSub cw % (row.maxSub + 1) = cwSub cw ↔ cwSub cw ≤ row.maxSub := by
    rw [Nat.mod_eq_iff_lt (by omega), Nat.lt_succ_iff]
  have hsub_le := Nat.mod_le (cwSub cw) (row.maxSub + 1)
  have himm : (if row.immIsAddr then cwImm cw else 0) = cwImm cw ↔
      row.immIsAddr = true ∨ cwImm cw = 0 := by
    cases row.immIsAddr <;> simp [eq_comm]
  have himm_le : (if row.immIsAddr then cwImm cw else 0) ≤ cwImm cw := by
    split <;> simp
  rw [TableRow.admits, beq_iff_eq]
  show cw &&& ~~~row.freeBits = commandWord unit op 0 0 ↔ _
  rw [← BitVec.toNat_inj, hvalue, ← hsub, ← himm]
  omega

theorem exists_rowOf_iff (cw : BitVec 32) (P : OperandKind → Prop) :
    (∃ row, RowOf cw row ∧ P row.kind) ↔ ∃ r ∈ opcodeTable, r.admits cw = true ∧ P r.kind := by
  constructor
  · rintro ⟨row, ⟨hrow, hsub, himm⟩, hP⟩
    exact ⟨row.toTableRow (cwUnit cw) (cwOp cw), mem_opcodeTable_iff.2 ⟨_, _, row, hrow, rfl⟩,
      (admits_toTableRow_iff hrow cw).2 ⟨rfl, rfl, hsub, himm⟩, hP⟩
  · rintro ⟨r, hr, hadmits, hP⟩
    obtain ⟨unit, op, row, hrow, rfl⟩ := mem_opcodeTable_iff.1 hr
    obtain ⟨rfl, rfl, hsub, himm⟩ := (admits_toTableRow_iff hrow cw).1 hadmits
    exact ⟨row, ⟨hrow, hsub, himm⟩, hP⟩

theorem opcodeTable_values_disagree :
    opcodeTable.Pairwise fun a b => a.value &&& b.mask ≠ b.value &&& a.mask := by decide

/-- Rows whose values disagree on the bits both fix share no word. -/
theorem not_admits_both {a b : TableRow} (h : a.value &&& b.mask ≠ b.value &&& a.mask) (cw : BitVec 32) :
    ¬ (a.admits cw = true ∧ b.admits cw = true) := by
  rintro ⟨ha, hb⟩
  rw [TableRow.admits, beq_iff_eq] at ha hb
  apply h
  rw [← ha, ← hb, BitVec.and_assoc, BitVec.and_assoc, BitVec.and_comm a.mask]

/-- Settles O3: a row of the opcode map admits the words of its match and mask, and no two rows agree on
the bits both fix. -/
theorem legalCommandWords : Obligations.LegalCommandWords := by
  refine ⟨fun c => ?_, by decide, opcodeTable_values_disagree.imp fun h => not_admits_both h⟩
  rw [← exists_rowOf_iff c.cw fun kind => operandAllowed kind c.opnd = true]
  constructor
  · rintro ⟨i, hdec⟩
    obtain ⟨row, hrow, hallowed, -⟩ := decodeCommand_eq_ok_iff.1 hdec
    exact ⟨row, hrow, hallowed⟩
  · rintro ⟨row, hrow, hallowed⟩
    exact ⟨row.build c, decodeCommand_eq_ok_iff.2 ⟨row, hrow, hallowed, rfl⟩⟩

/-- Settles O7: a command no row allows does not decode. -/
theorem illegalEncodingRejected : Obligations.IllegalEncodingRejected := by
  intro s c rest htake hnone
  unfold step
  rw [htake]
  cases hdec : decodeCommand c with
  | error e =>
    simp only [hdec]
    exact raiseErr_eq (by decide) _
  | ok i =>
    obtain ⟨r, hr, hadmits, hallowed⟩ := (legalCommandWords.1 c).1 ⟨i, hdec⟩
    rw [hnone r hr hadmits] at hallowed
    cases hallowed

/-- Which checks of the command word name the error (R322). -/
theorem decodeCommand_word_errors (c : Command) :
    (decodeCommand c = .error .reservedUnit ↔ 6 ≤ cwUnit c.cw) ∧
      (decodeCommand c = .error .reservedOp ↔ cwUnit c.cw < 6 ∧ opCount (cwUnit c.cw) ≤ cwOp c.cw) ∧
      (decodeCommand c = .error .badSub ↔ cwOp c.cw < opCount (cwUnit c.cw) ∧ ¬ SubOk c.cw) ∧
      (decodeCommand c = .error .badImm ↔
        cwOp c.cw < opCount (cwUnit c.cw) ∧ SubOk c.cw ∧ ¬ ImmOk c.cw) ∧
      decodeCommand c ≠ .error .incomplete := by
  obtain ⟨hunit, e⟩ | ⟨hunit, hop, e⟩ | ⟨hop, hchecks⟩ := decodeCommand_cases c
  · simp [e, hunit, opCount_of_reserved hunit]
  · simp [e, hunit, hop, Nat.not_lt.2 hop]
  have hunit := unit_lt_of_op_lt hop
  obtain ⟨hsub, e⟩ | ⟨hsub, himm, e⟩ | ⟨hsub, himm, row, hrow⟩ := hchecks
  · simp [e, hunit, hop, hsub]
  · simp [e, hunit, hop, hsub, himm]
  · rw [decodeCommand_of_rowOf hrow]
    split <;> simp [hunit, hop, hsub, himm]

/-- Settles O4: the checks of the command word by their order, the operand's through the table. -/
theorem decodeCheckOrder : Obligations.DecodeCheckOrder := by
  intro c unit op subOk immOk
  obtain ⟨hunit, hop, hsub, himm, hwhole⟩ := decodeCommand_word_errors c
  exact ⟨hunit, hop, hsub, himm,
    decodeCommand_eq_badOperand_iff.trans
      (exists_rowOf_iff c.cw fun kind => operandAllowed kind c.opnd = false), hwhole⟩

end Sys2Proof
end

section
/-!
The command port and the encoder (30_encoding.md): a command's length from its first 12 bytes, and decoder
and encoder against each other, in both directions.
-/

namespace Sys2Proof

open Machine

/-! ### Whole commands on the port (R304) -/

theorem hasPayload_iff {cw : BitVec 32} : hasPayload cw = true ↔ cwUnit cw = 0 ∧ cwOp cw = 3 := by
  unfold hasPayload cwUnit cwOp
  rw [beq_iff_eq]
  omega

theorem payloadLength_of_push {cw : BitVec 32} (opnd : Word) (h : hasPayload cw = true) :
    payloadLength cw opnd = opnd.toNat % 2 ^ 32 := if_pos h

theorem payloadLength_of_not_push {cw : BitVec 32} (opnd : Word) (h : ¬ hasPayload cw = true) :
    payloadLength cw opnd = 0 := if_neg h

theorem takeCommand_of_short {bytes : List Byte} (h : bytes.length < 12) : takeCommand bytes = none :=
  if_pos h

/-- With 12 bytes on the port: the command word, the operand word, the payload and the pad (R304). -/
theorem takeCommand_eq {bytes : List Byte} {cw : BitVec 32} {opnd : Word} {n : Nat}
    (hlen : 12 ≤ bytes.length) (hcw : BitVec.ofNat 32 (leNat (bytes.take 4)) = cw)
    (hopnd : BitVec.ofNat 64 (leNat ((bytes.drop 4).take 8)) = opnd) (hn : payloadLength cw opnd = n) :
    takeCommand bytes =
      if bytes.length < 12 + n + padLength n then none
      else some (⟨cw, opnd, (bytes.drop 12).take n⟩, bytes.drop (12 + n + padLength n)) := by
  subst hcw hopnd hn
  unfold takeCommand
  rw [if_neg (Nat.not_lt.2 hlen)]
  simp only [List.length_drop, List.drop_drop, Nat.add_assoc, Nat.sub_lt_iff_lt_add' hlen]

theorem takeCommand_payload_length {bytes rest : List Byte} {c : Command}
    (h : takeCommand bytes = some (c, rest)) : c.payload.length = payloadLength c.cw c.opnd := by
  rcases Nat.lt_or_ge bytes.length 12 with hlen | hlen
  · rw [takeCommand_of_short hlen] at h
    cases h
  rw [takeCommand_eq hlen rfl rfl rfl] at h
  split at h
  · cases h
  next hwhole =>
    cases h
    rw [List.length_take, List.length_drop]
    exact Nat.min_eq_left (by omega)

/-- Settles O5: the announced number of payload bytes is the model's `payloadLength`. -/
theorem commandLength : Obligations.CommandLength := by
  intro bytes cw opnd n total
  have hn : payloadLength cw opnd = n := if_congr beq_iff_eq rfl rfl
  refine ⟨by omega, takeCommand_of_short, fun hlen hshort => ?_, fun hwhole => ?_⟩
  · rw [takeCommand_eq hlen rfl rfl hn]
    exact if_pos hshort
  · rw [takeCommand_eq (by omega) rfl rfl hn]
    exact if_neg (Nat.not_lt.2 hwhole)

/-! ### The encoder against the decoder -/

theorem shortCommand_payload_length {unit op : Nat} (opnd : Word)
    (h : ¬ hasPayload (commandWord unit op 0 0) = true) :
    (shortCommand unit op opnd).payload.length =
      payloadLength (shortCommand unit op opnd).cw (shortCommand unit op opnd).opnd :=
  (payloadLength_of_not_push opnd h).symm

/-- The payload of an encoded well-formed command is as long as its first 12 bytes announce. -/
theorem toCommand_payload_length {i : Instr} (h : i.wf = true) :
    (toCommand i).payload.length = payloadLength (toCommand i).cw (toCommand i).opnd := by
  cases i with
  | ctlPush payload =>
    have hlt : payload.length < 2 ^ 32 := of_decide_eq_true h
    show payload.length = payloadLength (commandWord 0 3 0 0) (BitVec.ofNat 64 payload.length)
    rw [payloadLength_of_push _ (by decide), BitVec.toNat_ofNat]
    omega
  | ctlStreamError kind => cases kind <;> rfl
  | ctlReadReg addr =>
    refine (payloadLength_of_not_push 0 fun hpush => ?_).symm
    have hop : cwOp (commandWord 0 6 0 addr.toNat) = 6 :=
      commandWord_op (by decide) (by decide) (by decide) addr.isLt
    exact absurd (hop.symm.trans (hasPayload_iff.1 hpush).2) (by decide)
  | _ => exact shortCommand_payload_length _ (by decide)

theorem rowOf_commandWord {unit op sub imm : Nat} {row : OpcodeRow} (hrow : opcodeRow unit op = some row)
    (hsub : sub ≤ row.maxSub) (himm : imm < 2 ^ 16) (himm_ok : row.immIsAddr = true ∨ imm = 0) :
    RowOf (commandWord unit op sub imm) row := by
  have hlt := exists_opcodeRow_iff.1 ⟨row, hrow⟩
  have hop : op < 16 := by
    have := opCount_le unit
    omega
  have hunit : unit < 16 := by
    have := unit_lt_of_op_lt hlt
    omega
  have hsub256 : sub < 256 := by
    have hmax := (opcodeRow_form hrow).maxSub_eq
    split at hmax <;> omega
  refine ⟨?_, ?_, ?_⟩
  · rwa [commandWord_unit hunit hop hsub256 himm, commandWord_op hunit hop hsub256 himm]
  · rwa [commandWord_sub hunit hop hsub256 himm]
  · rwa [commandWord_imm hunit hop hsub256 himm]

/-- A command word put together for a row, with an operand the row allows, decodes to what the row builds. -/
theorem decodeCommand_commandWord {unit op sub imm : Nat} {row : OpcodeRow} {opnd : Word}
    {payload : List Byte} {i : Instr} (hrow : opcodeRow unit op = some row) (hsub : sub ≤ row.maxSub)
    (himm : imm < 2 ^ 16) (himm_ok : row.immIsAddr = true ∨ imm = 0)
    (hallowed : operandAllowed row.kind opnd = true)
    (hbuild : row.build ⟨commandWord unit op sub imm, opnd, payload⟩ = i) :
    decodeCommand ⟨commandWord unit op sub imm, opnd, payload⟩ = .ok i :=
  decodeCommand_eq_ok_iff.2 ⟨row, rowOf_commandWord hrow hsub himm himm_ok, hallowed, hbuild⟩

theorem decodeCommand_shortCommand {unit op : Nat} {row : OpcodeRow} {opnd : Word} {i : Instr}
    (hrow : opcodeRow unit op = some row) (hallowed : operandAllowed row.kind opnd = true)
    (hbuild : row.build (shortCommand unit op opnd) = i) :
    decodeCommand (shortCommand unit op opnd) = .ok i :=
  decodeCommand_commandWord hrow (Nat.zero_le _) (by decide) (.inr rfl) hallowed hbuild

/-- The decoder reads back the words the encoder wrote. -/
theorem decodeCommand_toCommand {i : Instr} (h : i.wf = true) : decodeCommand (toCommand i) = .ok i := by
  cases i with
  | ctlPush payload =>
    have hlt : payload.length < 2 ^ 32 := of_decide_eq_true h
    refine decodeCommand_commandWord rfl (Nat.zero_le _) (by decide) (.inr rfl) ?_ rfl
    simp only [plainRow, operandAllowed, BitVec.toNat_ofNat, beq_iff_eq]
    omega
  | ctlStreamError kind =>
    cases kind <;> exact decodeCommand_commandWord rfl (by decide) (by decide) (.inr rfl) rfl rfl
  | ctlReadReg addr =>
    refine decodeCommand_commandWord rfl (Nat.zero_le _) addr.isLt (.inl rfl) rfl ?_
    show Instr.ctlReadReg (BitVec.ofNat 16 (cwImm (commandWord 0 6 0 addr.toNat))) = _
    rw [commandWord_imm (by decide) (by decide) (by decide) addr.isLt, BitVec.ofNat_toNat,
      BitVec.setWidth_eq]
  | _ => exact decodeCommand_shortCommand rfl rfl rfl

/-- Settles O1: the port gives the encoded command back, and its word stands in the encoder's row. -/
theorem decodeEncodeRoundTrip : Obligations.DecodeEncodeRoundTrip := by
  intro i rest h
  unfold decode encode
  rw [takeCommand_commandBytes _ rest (toCommand_payload_length h)]
  simp only [decodeCommand_toCommand h]

/-- Settles O10: eight words the encoder writes, and NOP's word with SUB 1. -/
theorem decodesWrittenWords : Obligations.DecodesWrittenWords :=
  ⟨decodeCommand_toCommand (i := .ctlReadReg 0x0201) rfl,
    decodeCommand_toCommand (i := .ctlStreamError .ioFailure) rfl,
    decodeCommand_toCommand (i := .ctlPush [1, 2, 3]) rfl,
    decodeCommand_toCommand (i := .bqSetType 1) rfl,
    decodeCommand_toCommand (i := .cmpSetThreshold 0xC024000000000000) rfl,
    decodeCommand_toCommand (i := .rvbSetDry 0x3FE0000000000000) rfl,
    decodeCommand_toCommand (i := .volSetVolume 0x4049000000000000) rfl,
    decodeCommand_toCommand (i := .seekSeek 0xC07F400000000000) rfl, by decide⟩

theorem opnd_eq_zero {opnd : Word} (h : operandAllowed .none opnd = true) : opnd = 0 :=
  BitVec.eq_of_toNat_eq (eq_of_beq h)

/-- What a row builds from a command of its words, and with an operand it allows, is well formed, and the
encoder writes that command. -/
theorem RowForm.toCommand_build {unit op : Nat} {row : OpcodeRow} (h : RowForm unit op row) {c : Command}
    (hunit : cwUnit c.cw = unit) (hop : cwOp c.cw = op) (hsub : cwSub c.cw ≤ row.maxSub)
    (himm : row.immIsAddr = true ∨ cwImm c.cw = 0) (hallowed : operandAllowed row.kind c.opnd = true)
    (hlen : c.payload.length = payloadLength c.cw c.opnd) :
    (row.build c).wf = true ∧ toCommand (row.build c) = c := by
  have hc : (⟨commandWord unit op (cwSub c.cw) (cwImm c.cw), c.opnd, c.payload⟩ : Command) = c := by
    rw [← hunit, ← hop, commandWord_fields]
  have hempty : ¬ (unit = 0 ∧ op = 3) → c.payload = [] := by
    rw [← hunit, ← hop, ← hasPayload_iff]
    intro hpush
    exact List.eq_nil_of_length_eq_zero (hlen.trans (payloadLength_of_not_push _ hpush))
  have hfixed : row.immIsAddr = false → cwImm c.cw = 0 := fun h => himm.resolve_left (by simp [h])
  cases h with
  | bare hplain hwf henc =>
    have hpayload := hempty fun ⟨hunit, hop⟩ => hplain ⟨hunit, by simp [hop]⟩
    rw [Nat.le_zero.1 hsub, hfixed rfl, opnd_eq_zero hallowed, hpayload] at hc
    exact ⟨hwf, henc.trans hc⟩
  | word hplain hwf henc =>
    have hpayload := hempty fun ⟨hunit, hop⟩ => hplain ⟨hunit, by simp [hop]⟩
    rw [Nat.le_zero.1 hsub, hfixed rfl, hpayload] at hc
    exact ⟨hwf c.opnd, (henc c.opnd).trans hc⟩
  | push =>
    have hupper : c.opnd.toNat / 2 ^ 32 = 0 := eq_of_beq hallowed
    rw [payloadLength_of_push _ (hasPayload_iff.2 ⟨hunit, hop⟩)] at hlen
    have hopnd : BitVec.ofNat 64 c.payload.length = c.opnd := by
      rw [hlen, Nat.mod_eq_of_lt (by omega), BitVec.ofNat_toNat, BitVec.setWidth_eq]
    rw [Nat.le_zero.1 hsub, hfixed rfl, ← hopnd] at hc
    exact ⟨decide_eq_true (by omega), hc⟩
  | streamError =>
    rw [hfixed rfl, opnd_eq_zero hallowed, hempty (by decide)] at hc
    refine ⟨rfl, Eq.trans ?_ hc⟩
    rcases Nat.le_one_iff_eq_zero_or_eq_one.1 hsub with hzero | hone
    · simp only [toCommand, hzero, if_true, StreamErrorKind.sub]
    · simp only [toCommand, hone, one_ne_zero, if_false, StreamErrorKind.sub]
  | readReg =>
    have haddr : (BitVec.ofNat 16 (cwImm c.cw)).toNat = cwImm c.cw := by
      rw [BitVec.toNat_ofNat]
      exact Nat.mod_mod _ _
    rw [Nat.le_zero.1 hsub, ← haddr, opnd_eq_zero hallowed, hempty (by decide)] at hc
    exact ⟨rfl, hc⟩

/-- Settles O2: the encoder writes back what a row built, form by form. -/
theorem decoderAcceptsOnlyEncodings : Obligations.DecoderAcceptsOnlyEncodings := by
  intro bytes rest c i htake hdec
  obtain ⟨row, ⟨hrow, hsub, himm⟩, hallowed, rfl⟩ := decodeCommand_eq_ok_iff.1 hdec
  exact (opcodeRow_form hrow).toCommand_build rfl rfl hsub himm hallowed (takeCommand_payload_length htake)

end Sys2Proof
end

section
/-!
READ_REG (40_control.md R430): the readable addresses of the register map, page by page, are those R160
defines.
-/

namespace Sys2Proof.Machine

/-! ### The readable registers of each page (R104 to R153) -/

theorem readControl_isSome_iff (s : State) (n : Nat) :
    (s.readControl n).isSome ↔ n ≤ 0x03 ∨ (0x10 ≤ n ∧ n ≤ 0x16) := by
  unfold State.readControl
  split
  case h_12 => simp only [imp_false] at *; simp; omega
  all_goals simp

theorem BqUnit.readReg_isSome_iff (u : BqUnit) (n : Nat) :
    (u.readReg n).isSome ↔ n ≤ 0x05 ∨ (0x08 ≤ n ∧ n ≤ 0x0C) := by
  unfold BqUnit.readReg
  split
  case h_12 => simp only [imp_false] at *; simp; omega
  all_goals simp

theorem CmpUnit.readReg_isSome_iff (u : CmpUnit) (n : Nat) : (u.readReg n).isSome ↔ n ≤ 0x0A := by
  unfold CmpUnit.readReg
  split
  case h_12 => simp only [imp_false] at *; simp; omega
  all_goals simp

theorem RvbUnit.readReg_isSome_iff (u : RvbUnit) (n : Nat) : (u.readReg n).isSome ↔ n ≤ 0x08 := by
  unfold RvbUnit.readReg
  split
  case h_10 => simp only [imp_false] at *; simp; omega
  all_goals simp

theorem VolUnit.readReg_isSome_iff (u : VolUnit) (n : Nat) : (u.readReg n).isSome ↔ n ≤ 0x02 := by
  unfold VolUnit.readReg
  split
  case h_4 => simp only [imp_false] at *; simp; omega
  all_goals simp

theorem SeekUnit.readReg_isSome_iff (u : SeekUnit) (n : Nat) : (u.readReg n).isSome ↔ n ≤ 0x04 := by
  unfold SeekUnit.readReg
  split
  case h_6 => simp only [imp_false] at *; simp; omega
  all_goals simp

/-! ### The history (R122) -/

theorem readHistory_isSome_iff (s : State) (cell : Nat) :
    (s.readHistory cell).isSome ↔ cell / 4 < s.geo.chans := by
  unfold State.readHistory
  split <;> simp [*]

theorem definedAddress_history {chans a : Nat} (h : 0x4000 ≤ a) :
    definedAddress chans a ↔ (a - 0x4000) / 4 < chans := by
  constructor
  · rintro (h1 | h1 | h1 | h1 | h1 | h1 | h1 | h1 | ⟨c, k, hc, hk, rfl⟩)
    all_goals omega
  · intro hc
    exact .inr (.inr (.inr (.inr (.inr (.inr (.inr (.inr
      ⟨(a - 0x4000) / 4, a % 4, hc, Nat.mod_lt _ (by decide), by omega⟩)))))))

/-! ### The register map as a whole (R160) -/

/-- Exactly the addresses R160 defines can be read: each page by its own lemma. -/
theorem readReg_isSome_iff (s : State) (a : BitVec 16) :
    (s.readReg a).isSome ↔ definedAddress s.geo.chans a.toNat := by
  unfold State.readReg
  split
  next hhist => rw [readHistory_isSome_iff, definedAddress_history hhist]
  next hlow =>
    have hnone : ¬ ∃ c k, c < s.geo.chans ∧ k < 4 ∧ a.toNat = 0x4000 + 4 * c + k := by
      rintro ⟨c, k, -, -, ha⟩
      omega
    simp only [definedAddress, hnone, or_false]
    split
    next => rw [readControl_isSome_iff]; omega
    next => rw [BqUnit.readReg_isSome_iff]; omega
    next => rw [CmpUnit.readReg_isSome_iff]; omega
    next => rw [RvbUnit.readReg_isSome_iff]; omega
    next => rw [VolUnit.readReg_isSome_iff]; omega
    next => rw [SeekUnit.readReg_isSome_iff]; omega
    next => simp only [imp_false] at *; simp; omega

/-! ### READ_REG -/

theorem exec_ctlReadReg_of_some {s : State} {a : BitVec 16} {v : Word} (h : s.readReg a = some v) :
    exec (.ctlReadReg a) s = .next ({ s with res0 := v } : State).completed := by
  simp only [exec, execCtlReadReg, h]
  exact succeed_eq _

theorem exec_ctlReadReg_of_none {s : State} {a : BitVec 16} (h : s.readReg a = none) :
    exec (.ctlReadReg a) s = .next (s.rejected .badRegister) := by
  simp only [exec, execCtlReadReg, h]
  exact raiseErr_eq (by decide) _

/-- READ_REG's command word carries the address in its low half (R303). -/
theorem readRegWord_eq (a : BitVec 16) :
    0x06000000#32 ||| a.setWidth 32 = commandWord 0 6 0 a.toNat := by
  apply BitVec.eq_of_toNat_eq
  rw [commandWord_toNat (by decide) (by decide) (by decide) a.isLt, BitVec.toNat_or, BitVec.toNat_setWidth,
    Nat.mod_eq_of_lt (by omega)]
  exact (Nat.two_pow_add_eq_or_of_lt (i := 16) a.isLt 0x0600).symm

/-- Settles O26: `readReg_isSome_iff` decides which of READ_REG's two ends is taken. -/
theorem readRegEffect : Obligations.ReadRegEffect := by
  refine ⟨fun a => ?_, fun s a => ⟨fun hdef => ?_, fun hdef => ?_⟩⟩
  · rw [readRegWord_eq]
    exact decodeCommand_toCommand (i := .ctlReadReg a) rfl
  · obtain ⟨v, hv⟩ := Option.isSome_iff_exists.1 ((readReg_isSome_iff s a).2 hdef)
    exact ⟨v, hv, exec_ctlReadReg_of_some hv⟩
  · have hnone : s.readReg a = none :=
      Option.not_isSome_iff_eq_none.1 (mt (readReg_isSome_iff s a).1 hdef)
    exact ⟨hnone, exec_ctlReadReg_of_none hnone⟩

end Sys2Proof.Machine
end

section
/-!
The other control commands (40_control.md): their command words, and the whole next state of each case. What
`exec` answers stands first, command by command, over the operand checks and the lifecycle operations; the
statements then put in what these are.
-/

namespace Sys2Proof.Machine

/-! ### Teardown and instantiation (R410, R411) -/

theorem State.teardown_eq_released {s : State} (hact : s.phase = .active) : s.teardown = s.released :=
  State.teardown_of_active hact

/-- Instantiation writes all that teardown writes. -/
theorem State.teardown_instantiate (s : State) : s.teardown.instantiate = s.instantiate := by
  cases hp : s.phase with
  | idle => rw [State.teardown_of_idle hp]
  | active => rw [State.teardown_of_active hp]; rfl

/-! ### Lifecycle -/

theorem exec_ctlCreate (s : State) : exec .ctlCreate s = .next s.instantiate.completed := by
  rw [← s.teardown_instantiate]
  exact succeed_eq _

theorem exec_ctlDestroy (s : State) : exec .ctlDestroy s = .next s.teardown.completed := succeed_eq _

theorem exec_ctlEnd_of_idle {s : State} (hidle : s.phase = .idle) :
    exec .ctlEnd s = .next (s.rejected .notActive) := by
  simp only [exec, execCtlEnd, hidle]
  exact raiseErr_eq (by decide) s

theorem exec_ctlEnd_of_active {s : State} (hact : s.phase = .active) :
    exec .ctlEnd s = .next (flushLeftover s).teardown.completed := by
  simp only [exec, execCtlEnd, hact]
  exact succeed_eq _

theorem exec_ctlStreamError_of_idle {s : State} (hidle : s.phase = .idle) (k : StreamErrorKind) :
    exec (.ctlStreamError k) s = .next s.completed := by
  simp only [exec, execCtlStreamError, hidle]
  exact succeed_eq s

theorem exec_ctlStreamError_prematureClose {s : State} (hact : s.phase = .active) :
    exec (.ctlStreamError .prematureClose) s = .next s.teardown.completed := by
  simp only [exec, execCtlStreamError, hact]
  exact succeed_eq _

theorem exec_ctlStreamError_ioFailure {s : State} (hact : s.phase = .active) :
    exec (.ctlStreamError .ioFailure) s = .next (s.teardown.post (.error 1)).completed := by
  simp only [exec, execCtlStreamError, hact]
  exact succeed_eq _

/-- Settles O13. -/
theorem softReset : Obligations.SoftReset :=
  ⟨decodeCommand_toCommand (i := .ctlReset) rfl, fun s => succeed_eq s.softReset⟩

/-- Settles O22: DESTROY is teardown in either phase. -/
theorem lifecycleCommands : Obligations.LifecycleCommands := by
  refine ⟨⟨decodeCommand_toCommand (i := .ctlNop) rfl, decodeCommand_toCommand (i := .ctlCreate) rfl,
    decodeCommand_toCommand (i := .ctlDestroy) rfl⟩,
    fun s => ⟨succeed_eq s, exec_ctlCreate s, fun hidle => ?_, fun hact => ?_⟩⟩
  · rw [exec_ctlDestroy, State.teardown_of_idle hidle]
  · rw [exec_ctlDestroy, State.teardown_eq_released hact]

/-- Settles O23: END's flush is `flushLeftover_eq`; the event of an I/O failure may be posted before or
after the teardown. -/
theorem endAndStreamError : Obligations.EndAndStreamError := by
  refine ⟨⟨decodeCommand_toCommand (i := .ctlEnd) rfl,
    decodeCommand_toCommand (i := .ctlStreamError .prematureClose) rfl,
    decodeCommand_toCommand (i := .ctlStreamError .ioFailure) rfl⟩,
    fun s => ⟨exec_ctlEnd_of_idle, fun hact hleft => ?_, exec_ctlStreamError_of_idle,
      fun hact => ⟨?_, ?_⟩⟩⟩
  · rw [exec_ctlEnd_of_active hact, flushLeftover_eq hleft, State.teardown_eq_released hact]
  · rw [exec_ctlStreamError_prematureClose hact, State.teardown_eq_released hact]
  · rw [exec_ctlStreamError_ioFailure hact, State.teardown_eq_released hact]
    rfl

/-! ### Geometry (R420, R421, R423) -/

section
variable {s : State} {v : Word}

/-- The lock comes before the operand. -/
theorem exec_geometrySetters_of_active (hact : s.phase = .active) (v : Word) :
    exec (.ctlSetBitdepth v) s = .next (s.rejected .geometryLocked) ∧
      exec (.ctlSetEndian v) s = .next (s.rejected .geometryLocked) ∧
      exec (.ctlSetChannels v) s = .next (s.rejected .geometryLocked) := by
  simp only [exec, execCtlSetBitdepth, execCtlSetEndian, execCtlSetChannels, hact, and_self]
  exact raiseErr_eq (by decide) s

theorem exec_ctlSetBitdepth_of_ok (hidle : s.phase = .idle) {b : BitDepth}
    (hv : bitdepthOperand v = .ok b) :
    exec (.ctlSetBitdepth v) s =
      .next (({ s with geo := { s.geo with bitdepth := b } } : State).reconfigured 0x0010 v) := by
  simp only [exec, execCtlSetBitdepth, hidle, hv]
  exact succeedReconfig_eq _ _ _

theorem exec_ctlSetBitdepth_of_error (hidle : s.phase = .idle) {e : ErrCode}
    (hv : bitdepthOperand v = .error e) : exec (.ctlSetBitdepth v) s = raiseErr e s := by
  simp only [exec, execCtlSetBitdepth, hidle, hv]

theorem exec_ctlSetEndian_of_ok (hidle : s.phase = .idle) {e : Endian} (hv : endianOperand v = .ok e) :
    exec (.ctlSetEndian v) s =
      .next (({ s with geo := { s.geo with endian := e } } : State).reconfigured 0x0011 v) := by
  simp only [exec, execCtlSetEndian, hidle, hv]
  exact succeedReconfig_eq _ _ _

theorem exec_ctlSetEndian_of_error (hidle : s.phase = .idle) {e : ErrCode}
    (hv : endianOperand v = .error e) : exec (.ctlSetEndian v) s = raiseErr e s := by
  simp only [exec, execCtlSetEndian, hidle, hv]

theorem exec_ctlSetChannels_of_ok (hidle : s.phase = .idle) {n : Word} (hv : channelsOperand v = .ok n) :
    exec (.ctlSetChannels v) s =
      .next (({ s with geo := { s.geo with channels := n } } : State).reconfigured 0x0013 n) := by
  simp only [exec, execCtlSetChannels, hidle, hv]
  exact succeedReconfig_eq _ _ _

theorem exec_ctlSetChannels_of_error (hidle : s.phase = .idle) {e : ErrCode}
    (hv : channelsOperand v = .error e) : exec (.ctlSetChannels v) s = raiseErr e s := by
  simp only [exec, execCtlSetChannels, hidle, hv]

theorem channelsOperand_of_bad (h : v.toNat = 0 ∨ Config.maxChannels < v.toNat) :
    channelsOperand v = .error .badChannels := by
  cases hv : channelsOperand v with
  | error e => rw [channelsOperand_eq_error hv]
  | ok n =>
    have hrange := (channelsOperand_eq_ok.1 hv).1
    omega

end

/-- Settles O24: by phase, and in IDLE by what the operand check answers. -/
theorem geometrySetters : Obligations.GeometrySetters := by
  refine ⟨fun v => ⟨decodeCommand_toCommand (i := .ctlSetBitdepth v) rfl,
    decodeCommand_toCommand (i := .ctlSetEndian v) rfl,
    decodeCommand_toCommand (i := .ctlSetChannels v) rfl⟩,
    fun s v => ⟨fun hact => exec_geometrySetters_of_active hact v, fun hidle =>
      ⟨fun b hv => ?_, fun h16 h32 => ?_, fun e hv => ?_, fun h0 h1 => ?_, fun hlow hhigh => ?_,
        fun hbad => ?_⟩⟩⟩
  · exact exec_ctlSetBitdepth_of_ok hidle (bitdepthOperand_eq_ok.2 hv)
  · rw [exec_ctlSetBitdepth_of_error hidle (bitdepthOperand_eq_error.2 ⟨⟨h16, h32⟩, rfl⟩)]
    exact raiseErr_eq (by decide) s
  · exact exec_ctlSetEndian_of_ok hidle (endianOperand_eq_ok.2 hv)
  · rw [exec_ctlSetEndian_of_error hidle (endianOperand_eq_error.2 ⟨⟨h0, h1⟩, rfl⟩)]
    exact raiseErr_eq (by decide) s
  · exact exec_ctlSetChannels_of_ok hidle (channelsOperand_eq_ok.2 ⟨⟨hlow, hhigh⟩, rfl⟩)
  · rw [exec_ctlSetChannels_of_error hidle (channelsOperand_of_bad hbad)]
    exact raiseErr_eq (by decide) s

/-! ### The rate (R422) -/

section
variable {s : State} {v : Word}

/-- The first check: the range of the rate. -/
theorem rateOperand_of_badRate (freq : F64) (h : v.toNat = 0 ∨ Config.maxRate < v.toNat) :
    rateOperand v freq = .error .badRate := by
  unfold rateOperand
  rcases h with hzero | hhigh
  · rw [if_pos (by omega)]
  · rw [if_pos hhigh, ite_self]

/-- The second check: half the rate against the held frequency. -/
theorem rateOperand_of_badFrequency {freq : F64} (hlow : 1 ≤ v.toNat) (hhigh : v.toNat ≤ Config.maxRate)
    (hnyquist : flt (toF64 (v.toNat : Int)) (fmul f64Two freq) = true) :
    rateOperand v freq = .error .badFrequency := by
  unfold rateOperand
  rw [if_neg (Nat.not_lt.2 hlow), if_neg (Nat.not_lt.2 hhigh), if_pos hnyquist]

theorem exec_ctlSetRate_of_error {e : ErrCode} (hv : rateOperand v s.bq.freq = .error e) :
    exec (.ctlSetRate v) s = raiseErr e s := by
  simp only [exec, execCtlSetRate, hv]

/-- The last check: the coefficients at the new rate. -/
theorem exec_ctlSetRate_of_badDesign (hv : rateOperand v s.bq.freq = .ok v) {e : ErrCode}
    (hc : checkedDesign s.bq.type (toF64 (v.toNat : Int)) s.bq.freq s.bq.q s.bq.gain = .error e) :
    exec (.ctlSetRate v) s = raiseErr e s := by
  simp only [exec, execCtlSetRate, hv, hc]

theorem exec_ctlSetRate_of_ok (hv : rateOperand v s.bq.freq = .ok v) {c : Coeffs}
    (hc : checkedDesign s.bq.type (toF64 (v.toNat : Int)) s.bq.freq s.bq.q s.bq.gain = .ok c) :
    exec (.ctlSetRate v) s =
      .next
        (({ s with
            geo := { s.geo with rate := v }
            bq := { s.bq with coeffs := c }
            cmp :=
              { s.cmp with
                attackC := coefOf (toF64 (v.toNat : Int)) s.cmp.attackMs
                releaseC := coefOf (toF64 (v.toNat : Int)) s.cmp.releaseMs } } : State).reconfigured
          0x0012 v) := by
  simp only [exec, execCtlSetRate, hv, hc]
  exact succeedReconfig_eq _ _ _

end

/-- Settles O25: the checks in their order, then the setter. -/
theorem setRateEffect : Obligations.SetRateEffect := by
  refine ⟨fun v => decodeCommand_toCommand (i := .ctlSetRate v) rfl, ?_⟩
  intro s v fs c
  refine ⟨fun hrate => ?_, fun hlow hhigh =>
    ⟨fun hnyquist => ?_, fun hnyquist hdesign => ?_, fun hnyquist hdesign => ?_⟩⟩
  · rw [exec_ctlSetRate_of_error (rateOperand_of_badRate _ hrate)]
    exact raiseErr_eq (by decide) s
  · rw [exec_ctlSetRate_of_error (rateOperand_of_badFrequency hlow hhigh hnyquist)]
    exact raiseErr_eq (by decide) s
  · rw [exec_ctlSetRate_of_badDesign (rateOperand_eq_ok.2 ⟨⟨hlow, hhigh, hnyquist⟩, rfl⟩)
      (checkedDesign_eq_error.2 ⟨hdesign, rfl⟩)]
    exact raiseErr_eq (by decide) s
  · exact exec_ctlSetRate_of_ok (rateOperand_eq_ok.2 ⟨⟨hlow, hhigh, hnyquist⟩, rfl⟩)
      (checkedDesign_eq_ok.2 ⟨hdesign, rfl⟩)

/-! ### Events and errors (R431, R432) -/

theorem exec_ctlPopEvent_of_nil {s : State} (hq : s.evq = []) :
    exec .ctlPopEvent s = .next (s.withResults (0, 0, 0, 0)).completed := by
  simp only [exec, execCtlPopEvent, hq]
  exact succeed_eq _

theorem exec_ctlPopEvent_of_cons {s : State} {ev : Event} {evs : List Event} (hq : s.evq = ev :: evs) :
    exec .ctlPopEvent s = .next (({ s with evq := evs } : State).withResults ev.words).completed := by
  simp only [exec, execCtlPopEvent, hq]
  exact succeed_eq _

/-- Settles O28: one equation for every kind of event, with the kind's words put in. -/
theorem popEventAndAckErr : Obligations.PopEventAndAckErr :=
  ⟨⟨decodeCommand_toCommand (i := .ctlPopEvent) rfl, decodeCommand_toCommand (i := .ctlAckErr) rfl⟩,
    fun _ hq => exec_ctlPopEvent_of_nil hq, fun _ _ _ _ hq => exec_ctlPopEvent_of_cons hq,
    fun _ _ _ _ _ hq => exec_ctlPopEvent_of_cons hq, fun _ _ _ hq => exec_ctlPopEvent_of_cons hq,
    fun s => succeed_eq s.ackErr⟩

end Sys2Proof.Machine
end

section
/-!
The sample codec (R452, R453): a byte pattern's number in two's complement, and the round trip both ways.
-/

namespace Sys2Proof.Machine

/-- `signExtend` reads a bit vector as two's complement. -/
theorem signExtend_toNat {w : Nat} (x : BitVec (w + 1)) : signExtend (2 ^ w) x.toNat = x.toInt := by
  rw [BitVec.toInt_eq_toNat_cond, signExtend, pow_succ]
  split <;> split <;> push_cast <;> omega

/-- A byte put under a bit vector is its lowest digit. -/
theorem toNat_append_byte {w : Nat} (x : BitVec w) (b : Byte) :
    (x ++ b).toNat = b.toNat + 256 * x.toNat := by
  rw [BitVec.toNat_append, ← Nat.shiftLeft_add_eq_or_of_lt b.isLt, Nat.shiftLeft_eq]
  omega

/-- A number below 2 · ext, sign-extended, is in range. -/
theorem signExtend_mem {ext u : Nat} (h : u < 2 * ext) :
    -(ext : Int) ≤ signExtend ext u ∧ signExtend ext u ≤ (ext : Int) - 1 := by
  unfold signExtend
  split <;> omega

/-- Sign extension is undone by the remainder mod 2 · ext, as `writeSample` takes it. -/
theorem signExtend_emod {ext u : Nat} (h : u < 2 * ext) :
    (signExtend ext u % (2 * (ext : Int))).toNat = u := by
  unfold signExtend
  split
  · rw [Int.emod_eq_of_lt (by omega) (by omega), Int.toNat_natCast]
  · rw [Int.sub_emod_right, Int.emod_eq_of_lt (by omega) (by omega), Int.toNat_natCast]

theorem signExtend_of_emod {ext : Nat} {v : Int} (hlo : -(ext : Int) ≤ v) (hhi : v ≤ (ext : Int) - 1) :
    signExtend ext (v % (2 * (ext : Int))).toNat = v := by
  unfold signExtend
  rcases lt_or_ge v 0 with hneg | hpos
  · have hmod : v % (2 * (ext : Int)) = v + 2 * ext := by
      rw [← Int.add_emod_right, Int.emod_eq_of_lt (by omega) (by omega)]
    rw [hmod, if_neg (by omega)]
    omega
  · rw [Int.emod_eq_of_lt hpos (by omega), if_pos (by omega)]
    omega

/-- A sample's bytes hold 2 · EXT patterns (R115). -/
theorem pow_byteWidth (g : Geometry) : 256 ^ g.byteWidth = 2 * g.extremum := by
  unfold Geometry.byteWidth Geometry.extremum
  cases g.bitdepth <;> rfl

section
variable {g : Geometry} {bytes : List Byte} {v : Int}

theorem leNat_order_lt (hlen : bytes.length = g.byteWidth) :
    leNat (g.endian.order bytes) < 2 * g.extremum := by
  rw [← pow_byteWidth, ← hlen, ← length_order g.endian bytes]
  exact leNat_lt _

theorem sampleOfBytes_inRange (hlen : bytes.length = g.byteWidth) :
    g.bitdepth.inRange (sampleOfBytes g bytes) :=
  signExtend_mem (leNat_order_lt hlen)

/-- What is read is written back to the same bytes. -/
theorem bytesOfSample_sampleOfBytes (hlen : bytes.length = g.byteWidth) :
    bytesOfSample g (sampleOfBytes g bytes) = bytes := by
  have hback := leBytes_leNat (g.endian.order bytes)
  rw [length_order, hlen] at hback
  rw [bytesOfSample, sampleOfBytes, signExtend_emod (leNat_order_lt hlen), hback, order_order]

/-- What is written is read back. -/
theorem sampleOfBytes_bytesOfSample (hv : g.bitdepth.inRange v) :
    sampleOfBytes g (bytesOfSample g v) = v := by
  obtain ⟨hlo, hhi⟩ := hv
  have hpattern : (v % (2 * (g.extremum : Int))).toNat < 2 * g.extremum := by
    have hext : 1 ≤ g.extremum := g.bitdepth.ext_bounds.1
    have hlt := Int.emod_lt_of_pos v (b := 2 * (g.extremum : Int)) (by omega)
    omega
  rw [sampleOfBytes, bytesOfSample, order_order, leNat_leBytes, pow_byteWidth,
    Nat.mod_eq_of_lt hpattern]
  exact signExtend_of_emod hlo hhi

/-- A format is known by what it reads: what it writes for that number are the bytes read. -/
theorem codec_of_read (hlen : bytes.length = g.byteWidth) (hread : sampleOfBytes g bytes = v) :
    sampleOfBytes g bytes = v ∧ bytesOfSample g v = bytes :=
  ⟨hread, hread ▸ bytesOfSample_sampleOfBytes hlen⟩

end

/-- Two bytes in the geometry's order are read as 16-bit two's complement. -/
theorem sampleOfBytes_of_b16 {g : Geometry} (hbits : g.bitdepth = .b16) {bytes : List Byte}
    {low high : Byte} (hbytes : g.endian.order bytes = [low, high]) :
    sampleOfBytes g bytes = (high ++ low).toInt := by
  have hnum : leNat [low, high] = (high ++ low).toNat := by
    simp only [leNat, toNat_append_byte, Nat.mul_zero, Nat.add_zero]
  rw [sampleOfBytes, hbytes, hnum, Geometry.extremum, hbits]
  exact signExtend_toNat (w := 15) (high ++ low)

/-- Four bytes in the geometry's order are read as 32-bit two's complement. -/
theorem sampleOfBytes_of_b32 {g : Geometry} (hbits : g.bitdepth = .b32) {bytes : List Byte}
    {d0 d1 d2 d3 : Byte} (hbytes : g.endian.order bytes = [d0, d1, d2, d3]) :
    sampleOfBytes g bytes = (d3 ++ d2 ++ d1 ++ d0).toInt := by
  have hnum : leNat [d0, d1, d2, d3] = (d3 ++ d2 ++ d1 ++ d0).toNat := by
    simp only [leNat, toNat_append_byte, Nat.mul_zero, Nat.add_zero]
  rw [sampleOfBytes, hbytes, hnum, Geometry.extremum, hbits]
  exact signExtend_toNat (w := 31) (d3 ++ d2 ++ d1 ++ d0)

/-- Settles O51: each format by its reading, and its writing by the round trip. -/
theorem sampleCodecRoundTrip : Obligations.SampleCodecRoundTrip := by
  refine ⟨fun g bytes hlen => ⟨sampleOfBytes_inRange hlen, bytesOfSample_sampleOfBytes hlen⟩,
    fun g v hv => sampleOfBytes_bytesOfSample hv, fun g b0 b1 b2 b3 => ?_⟩
  have hwidth16 : g.bitdepth = .b16 → 2 = g.byteWidth := fun h => by rw [Geometry.byteWidth, h]; rfl
  have hwidth32 : g.bitdepth = .b32 → 4 = g.byteWidth := fun h => by rw [Geometry.byteWidth, h]; rfl
  refine ⟨fun hb he => codec_of_read (hwidth16 hb) (sampleOfBytes_of_b16 hb ?_),
    fun hb he => codec_of_read (hwidth16 hb) (sampleOfBytes_of_b16 hb ?_),
    fun hb he => codec_of_read (hwidth32 hb) (sampleOfBytes_of_b32 hb ?_),
    fun hb he => codec_of_read (hwidth32 hb) (sampleOfBytes_of_b32 hb ?_)⟩ <;> rw [he] <;> rfl

end Sys2Proof.Machine
end

section
/-!
The chain unit by unit (R461, R462): each stage is its unit's pass over a sample, which in a disabled unit
changes nothing, in an enabled one is its step; every sample it answers is in range (R454).
-/

namespace Sys2Proof.Machine

/-! ### A unit's pass over a sample -/

/-- CMP's pass over a sample: the sample, the unit and the next free value after. -/
def CmpUnit.pass (ext : Nat) (u : CmpUnit) (v : Int) (free : Nat) : Int × CmpUnit × Nat :=
  if u.en then cmpStep ext u v free else (v, u, free)

/-- RVB's pass over a sample. -/
def RvbUnit.pass (ext : Nat) (u : RvbUnit) (v : Int) (free : Nat) : Int × RvbUnit × Nat :=
  if u.en then rvbStep ext u v free else (v, u, free)

/-- BQ's pass over a sample of channel `ch`. -/
def BqUnit.pass (ext : Nat) (u : BqUnit) (ch : Nat) (v : Int) (free : Nat) : Int × BqUnit × Nat :=
  if u.en then bqStep ext u ch v free else (v, u, free)

/-- VOL's pass over a sample. -/
def VolUnit.pass (ext : Nat) (u : VolUnit) (v : Int) : Int := if u.en then volStep ext u v else v

/-- The four passes over a sample of channel `ch`, CMP, RVB, BQ, VOL, each unit reading what the one before
it wrote (R461). -/
def State.passes (ext : Nat) (s : State) (ch : Nat) (v : Int) : Int × State :=
  let a := s.cmp.pass ext v s.free
  let b := s.rvb.pass ext a.1 a.2.2
  let c := s.bq.pass ext ch b.1 b.2.2
  (s.vol.pass ext c.1, { s with cmp := a.2.1, rvb := b.2.1, bq := c.2.1, free := c.2.2 })

section
variable (ch : Nat) (v : Int) (s : State)

/-! The four stages are the four passes. -/

theorem stageCmp_eq :
    stageCmp v s =
      let r := s.cmp.pass s.geo.extremum v s.free
      (r.1, { s with cmp := r.2.1, free := r.2.2 }) := by
  unfold stageCmp CmpUnit.pass
  split <;> rfl

theorem stageRvb_eq :
    stageRvb v s =
      let r := s.rvb.pass s.geo.extremum v s.free
      (r.1, { s with rvb := r.2.1, free := r.2.2 }) := by
  unfold stageRvb RvbUnit.pass
  split <;> rfl

theorem stageBq_eq :
    stageBq ch v s =
      let r := s.bq.pass s.geo.extremum ch v s.free
      (r.1, { s with bq := r.2.1, free := r.2.2 }) := by
  unfold stageBq BqUnit.pass
  split <;> rfl

theorem stageVol_eq : stageVol v s = (s.vol.pass s.geo.extremum v, s) := by
  unfold stageVol VolUnit.pass
  split <;> rfl

/-- One sample's way through the chain is the four passes. -/
theorem stageChain_eq : stageChain ch v s = s.passes s.geo.extremum ch v := by
  simp only [stageChain, stageCmp_eq, stageRvb_eq, stageBq_eq, stageVol_eq, State.passes]

/-! Each unit after a sample is its own pass over some sample. -/

theorem stageChain_cmp :
    (stageChain ch v s).2.cmp = (s.cmp.pass s.geo.extremum v s.free).2.1 := by
  rw [stageChain_eq, State.passes]

theorem stageChain_rvb :
    ∃ w free, (stageChain ch v s).2.rvb = (s.rvb.pass s.geo.extremum w free).2.1 := by
  rw [stageChain_eq, State.passes]
  exact ⟨_, _, rfl⟩

theorem stageChain_bq :
    ∃ w free, (stageChain ch v s).2.bq = (s.bq.pass s.geo.extremum ch w free).2.1 := by
  rw [stageChain_eq, State.passes]
  exact ⟨_, _, rfl⟩

/-- The chain neither reads nor writes SEEK. -/
theorem stageChain_with_seek (u : SeekUnit) :
    stageChain ch v { s with seek := u } =
      ((stageChain ch v s).1, { (stageChain ch v s).2 with seek := u }) := by
  simp only [stageChain_eq, State.passes]

end

/-! ### Disabled units (R462) -/

theorem CmpUnit.pass_of_disabled {u : CmpUnit} (h : u.en = false) (ext : Nat) (v : Int) (free : Nat) :
    u.pass ext v free = (v, u, free) := by simp [CmpUnit.pass, h]

theorem RvbUnit.pass_of_disabled {u : RvbUnit} (h : u.en = false) (ext : Nat) (v : Int) (free : Nat) :
    u.pass ext v free = (v, u, free) := by simp [RvbUnit.pass, h]

theorem BqUnit.pass_of_disabled {u : BqUnit} (h : u.en = false) (ext ch : Nat) (v : Int) (free : Nat) :
    u.pass ext ch v free = (v, u, free) := by simp [BqUnit.pass, h]

theorem VolUnit.pass_of_disabled {u : VolUnit} (h : u.en = false) (ext : Nat) (v : Int) :
    u.pass ext v = v := by simp [VolUnit.pass, h]

theorem stageChain_of_allDisabled {s : State} (h : s.allDisabled) (ch : Nat) (v : Int) :
    stageChain ch v s = (v, s) := by
  obtain ⟨hcmp, hrvb, hbq, hvol⟩ := h
  simp only [stageChain_eq, State.passes, CmpUnit.pass_of_disabled hcmp, RvbUnit.pass_of_disabled hrvb,
    BqUnit.pass_of_disabled hbq, VolUnit.pass_of_disabled hvol]

/-! ### Cells a pass leaves, and the cursor -/

/-- BQ's pass leaves the history of every other channel, and all of it where BQ is disabled. -/
theorem BqUnit.pass_read_other {u : BqUnit} {ch k : Nat} (h : u.en = false ∨ k / 4 ≠ ch) (ext : Nat)
    (v : Int) (free : Nat) : (u.pass ext ch v free).2.1.hist.read k = u.hist.read k := by
  unfold BqUnit.pass
  split
  next hen => exact bqStep_read_other _ _ _ _ _ (h.resolve_left (by simp [hen]))
  next => rfl

theorem RvbUnit.pass_read_other {u : RvbUnit} {a : Nat}
    (h : ∀ i, i < Config.nLines → a ≠ i * u.lineLen.toNat + u.cursor.toNat) (ext : Nat) (v : Int)
    (free : Nat) : (u.pass ext v free).2.1.line.read a = u.line.read a := by
  unfold RvbUnit.pass
  split
  · exact rvbStep_read_other _ _ _ _ h
  · rfl

/-- Where there are cells at all, an enabled RVB's pass moves the cursor by one, around the line. -/
theorem RvbUnit.pass_cursor {u : RvbUnit} (hen : u.en = true) (hlen : 0 < u.lineLen.toNat) (ext : Nat)
    (v : Int) (free : Nat) :
    (u.pass ext v free).2.1.cursor.toNat = (u.cursor.toNat + 1) % u.lineLen.toNat := by
  rw [RvbUnit.pass, if_pos hen]
  exact Nat.mod_eq_of_lt ((Nat.mod_lt _ hlen).trans u.lineLen.isLt)

/-! ### The range of a sample (R454) -/

/-- `quant` answers a sample in range, whatever it is given. -/
theorem quant_inRange (d : BitDepth) (v : F64) : d.inRange (quant d.ext v) := by
  have hext := d.ext_bounds
  cases hu : f64Unpack v with
  | nan =>
    rw [quant_of_nan (by simp only [f64IsNaN, hu])]
    constructor <;> omega
  | inf neg =>
    have htrunc : f64Trunc v = 0 := by simp only [f64Trunc, hu]
    rw [quant_eq (by simp only [f64IsNaN, hu]) hext, htrunc]
    split_ifs <;> constructor <;> omega
  | fin neg m =>
    rw [quant_of_rat (f64Rat_of_fin hu) hext]
    generalize (signedMag neg m : ℚ) / (f64Quanta : ℚ) = q
    split_ifs with hlo hhi hsign
    · constructor <;> omega
    · constructor <;> omega
    · have hfloor : ⌊q⌋ < (d.ext : Int) - 1 := Int.floor_lt.2 (by push_cast; linarith)
      have hnonneg : 0 ≤ ⌊q⌋ := Int.floor_nonneg.2 hsign
      constructor <;> omega
    · have hceil : -(d.ext : Int) < ⌈q⌉ := Int.lt_ceil.2 (by push_cast; linarith)
      have hnonpos : ⌈q⌉ ≤ 0 := Int.ceil_le.2 (by push_cast; linarith)
      constructor <;> omega

section
variable (d : BitDepth) {v : Int}

/-! A disabled unit passes the sample; every step but VOL's at gain 1 ends in `quant`. -/

theorem CmpUnit.pass_inRange (u : CmpUnit) (free : Nat) (hv : d.inRange v) :
    d.inRange (u.pass d.ext v free).1 := by
  unfold CmpUnit.pass
  split
  · exact quant_inRange d _
  · exact hv

theorem RvbUnit.pass_inRange (u : RvbUnit) (free : Nat) (hv : d.inRange v) :
    d.inRange (u.pass d.ext v free).1 := by
  unfold RvbUnit.pass
  split
  · exact quant_inRange d _
  · exact hv

theorem BqUnit.pass_inRange (u : BqUnit) (ch free : Nat) (hv : d.inRange v) :
    d.inRange (u.pass d.ext ch v free).1 := by
  unfold BqUnit.pass
  split
  · exact quant_inRange d _
  · exact hv

theorem VolUnit.pass_inRange (u : VolUnit) (hv : d.inRange v) : d.inRange (u.pass d.ext v) := by
  unfold VolUnit.pass volStep
  split_ifs
  · exact hv
  · exact quant_inRange d _
  · exact hv

end

/-- Settles O52: pass by pass, the chain's four in their order. -/
theorem samplesStayInRange : Obligations.SamplesStayInRange := by
  intro ch v s hv
  rw [stageCmp_eq, stageRvb_eq, stageBq_eq, stageVol_eq, stageChain_eq]
  exact ⟨s.cmp.pass_inRange _ _ hv, s.rvb.pass_inRange _ _ hv, s.bq.pass_inRange _ _ _ hv,
    s.vol.pass_inRange _ hv,
    s.vol.pass_inRange _ (s.bq.pass_inRange _ _ _ (s.rvb.pass_inRange _ _ (s.cmp.pass_inRange _ _ hv)))⟩

end Sys2Proof.Machine
end

section
/-!
The sample loop and PUSH (R450, R460): what a run of samples keeps, the whole next state of a PUSH, and one
frame's way through the chain.
-/

namespace Sys2Proof.Machine

/-! ### Runs of samples -/

/-- The induction over a run of samples: what holds before sample `j` and is carried over its way through
the chain holds after the last one. The states in between differ from `s` in running state alone. -/
theorem processSamples_induct {P : Nat → State → Prop} {s t : State} {count j : Nat} (buf : List Byte)
    (hsame : SameButRunning s t) (hstart : P j t)
    (hstep : ∀ i v u, j ≤ i → i < j + count → SameButRunning s u → P i u →
      P (i + 1) (stageChain (i % s.geo.chans) v u).2) :
    P (j + count) (processSamples count j buf t).2 := by
  induction count generalizing j buf t with
  | zero => exact hstart
  | succ count ih =>
    rw [show j + (count + 1) = j + 1 + count by omega, processSamples, hsame.geo]
    exact ih _ (hsame.trans (stageChain_same _ _ _)) (hstep j _ t le_rfl (by omega) hsame hstart)
      fun i v u hlo hhi => hstep i v u (by omega) (by omega)

theorem processFrames_induct {P : Nat → State → Prop} {s : State} (e : List Byte) (hstart : P 0 s)
    (hstep : ∀ i v u, i < e.length / s.geo.byteWidth → SameButRunning s u → P i u →
      P (i + 1) (stageChain (i % s.geo.chans) v u).2) :
    P (e.length / s.geo.byteWidth) (processFrames e s).2 := by
  have h := processSamples_induct (P := P) (count := e.length / s.geo.byteWidth) e
    (SameButRunning.refl s) hstart fun i v u _ hi => hstep i v u (by omega)
  rwa [Nat.zero_add] at h

@[simp] theorem processFrames_nil (s : State) : processFrames [] s = ([], s) := by
  simp [processFrames, processSamples]

theorem length_processFrames (e : List Byte) (s : State) : (processFrames e s).1.length = e.length :=
  length_processSamples _ _ _ _ (Nat.div_mul_le_self _ _)

section
variable {s : State} (e : List Byte)

theorem processFrames_cmp_of_disabled (h : s.cmp.en = false) : (processFrames e s).2.cmp = s.cmp :=
  processFrames_induct (P := fun _ t => t.cmp = s.cmp) e rfl fun _ v u _ _ hu => by
    rw [stageChain_cmp, hu, CmpUnit.pass_of_disabled h]

theorem processFrames_rvb_of_disabled (h : s.rvb.en = false) : (processFrames e s).2.rvb = s.rvb :=
  processFrames_induct (P := fun _ t => t.rvb = s.rvb) e rfl fun i v u _ _ hu => by
    obtain ⟨w, free, hrvb⟩ := stageChain_rvb (i % s.geo.chans) v u
    rw [hrvb, hu, RvbUnit.pass_of_disabled h]

theorem processFrames_bq_of_disabled (h : s.bq.en = false) : (processFrames e s).2.bq = s.bq :=
  processFrames_induct (P := fun _ t => t.bq = s.bq) e rfl fun i v u _ _ hu => by
    obtain ⟨w, free, hbq⟩ := stageChain_bq (i % s.geo.chans) v u
    rw [hbq, hu, BqUnit.pass_of_disabled h]

/-- The history changes for channels that had a sample, and only with BQ enabled. -/
theorem processFrames_hist {k : Nat}
    (h : s.bq.en = false ∨ ∀ j, j < e.length / s.geo.byteWidth → k / 4 ≠ j % s.geo.chans) :
    (processFrames e s).2.bq.hist.read k = s.bq.hist.read k :=
  processFrames_induct (P := fun _ t => t.bq.hist.read k = s.bq.hist.read k) e rfl
    fun i v u hi hsame hu => by
      obtain ⟨w, free, hbq⟩ := stageChain_bq (i % s.geo.chans) v u
      obtain ⟨hist, -, hunit⟩ := hsame.bq
      have hother : u.bq.en = false ∨ k / 4 ≠ i % s.geo.chans := by
        rw [hunit]
        exact h.imp_right fun hchan => hchan i hi
      rw [hbq, BqUnit.pass_read_other hother, hu]

end

/-! ### The cursor's way over the delay lines (R710) -/

/-- `w` is the enabled unit `u` after `n` samples: the cursor has moved `n` places around the line, and
every cell it did not come by in any line is as it was. -/
structure RvbUnit.Swept (u : RvbUnit) (n : Nat) (w : RvbUnit) : Prop where
  en : w.en = true
  lineLen : w.lineLen = u.lineLen
  cursor : w.cursor.toNat = (u.cursor.toNat + n) % u.lineLen.toNat
  line : ∀ a,
    (∀ i j, i < Config.nLines → j < n →
      a ≠ i * u.lineLen.toNat + (u.cursor.toNat + j) % u.lineLen.toNat) →
    w.line.read a = u.line.read a

theorem RvbUnit.Swept.zero {u : RvbUnit} (hen : u.en = true) (hcur : u.cursor.toNat < u.lineLen.toNat) :
    u.Swept 0 u where
  en := hen
  lineLen := rfl
  cursor := (Nat.mod_eq_of_lt hcur).symm
  line _ _ := rfl

theorem RvbUnit.Swept.pass {u w : RvbUnit} {n : Nat} (h : u.Swept n w) (hlen : 0 < u.lineLen.toNat)
    (ext : Nat) (v : Int) (free : Nat) : u.Swept (n + 1) (w.pass ext v free).2.1 where
  en := by
    rw [RvbUnit.pass, if_pos h.en]
    exact h.en
  lineLen := by
    rw [RvbUnit.pass, if_pos h.en]
    exact h.lineLen
  cursor := by
    rw [RvbUnit.pass_cursor h.en (by rwa [h.lineLen]), h.lineLen, h.cursor, Nat.mod_add_mod,
      Nat.add_assoc]
  line a ha := by
    have hother : ∀ i, i < Config.nLines → a ≠ i * w.lineLen.toNat + w.cursor.toNat := by
      intro i hi
      rw [h.lineLen, h.cursor]
      exact ha i n hi (Nat.lt_succ_self n)
    rw [RvbUnit.pass_read_other hother]
    exact h.line a fun i j hi hj => ha i j hi (Nat.lt_succ_of_lt hj)

theorem processFrames_swept {s : State} (e : List Byte) (hen : s.rvb.en = true)
    (hcur : s.rvb.cursor.toNat < s.rvb.lineLen.toNat) :
    s.rvb.Swept (e.length / s.geo.byteWidth) (processFrames e s).2.rvb :=
  processFrames_induct (P := fun n t => s.rvb.Swept n t.rvb) e (.zero hen hcur) fun i v u _ _ hu => by
    obtain ⟨w, free, hrvb⟩ := stageChain_rvb (i % s.geo.chans) v u
    rw [hrvb]
    exact hu.pass (Nat.zero_lt_of_lt hcur) _ _ _

/-! ### PUSH -/

theorem exec_ctlPush_of_idle {s : State} (hidle : s.phase = .idle) (payload : List Byte) :
    exec (.ctlPush payload) s = .next (s.rejected .notActive) := by
  simp only [exec, execCtlPush, hidle]
  exact raiseErr_eq (by decide) s

theorem exec_ctlPush_of_active {s : State} (hact : s.phase = .active) (payload : List Byte) :
    exec (.ctlPush payload) s = .next (pushChunk payload s).completed := by
  simp only [exec, execCtlPush, hact]
  exact succeed_eq _

/-- What the tracker lets through is processed and appended to OUT. -/
theorem pushChunk_eq {s : State} {payload e : List Byte} {u : SeekUnit}
    (htrack : track s.geo s.seek (s.seek.left ++ payload) = (e, u)) :
    pushChunk payload s =
      { (processFrames e { s with seek := u }).2 with
        out := s.out ++ (processFrames e { s with seek := u }).1 } := by
  have hout := (processFrames_same e { s with seek := u }).out
  simp only [pushChunk, htrack, State.emit, hout]

section
variable {s : State} {payload : List Byte} {u : SeekUnit}

theorem exec_ctlPush_of_track {e : List Byte} (hact : s.phase = .active)
    (htrack : track s.geo s.seek (s.seek.left ++ payload) = (e, u)) :
    exec (.ctlPush payload) s =
      .next
        ({ (processFrames e { s with seek := u }).2 with
            out := s.out ++ (processFrames e { s with seek := u }).1 } : State).completed := by
  rw [exec_ctlPush_of_active hact, pushChunk_eq htrack]

/-- Nothing let through: the tracker's work is all. -/
theorem exec_ctlPush_of_track_nil (hact : s.phase = .active)
    (htrack : track s.geo s.seek (s.seek.left ++ payload) = ([], u)) :
    exec (.ctlPush payload) s = .next ({ s with seek := u } : State).completed := by
  rw [exec_ctlPush_of_track hact htrack, processFrames_nil, List.append_nil]

end

/-- The leftover alone is less than a frame and not at a pending target. -/
theorem track_left {s : State} (hs : s.framingOk) :
    track s.geo s.seek s.seek.left = ([], s.seek) := by
  obtain ⟨-, -, hleft, hpend⟩ := hs
  have hframes : s.seek.left.length / s.geo.frameBytes = 0 := Nat.div_eq_of_lt hleft
  unfold track
  simp only [hframes, Nat.zero_mul, List.take_zero, List.drop_zero, Nat.add_zero, BitVec.ofNat_toNat,
    BitVec.setWidth_eq]
  cases hp : s.seek.pend with
  | none => simp only [← hp]
  | some p => simp only [if_pos (hpend p hp).1, ← hp]

/-- What a run of samples leaves is its start with the running state written. -/
theorem SameButRunning.eq {s t : State} (h : SameButRunning s t) :
    t =
      { s with
        bq := { s.bq with hist := t.bq.hist }
        cmp := { s.cmp with env := t.cmp.env, gr := t.cmp.gr }
        rvb := { s.rvb with line := t.rvb.line, cursor := t.rvb.cursor }
        free := t.free } := by
  obtain ⟨_, _, _, _, _, _, _, _, _, _, ⟨hist, -, hbq⟩, ⟨env, gr, hcmp⟩, ⟨line, cursor, -, hrvb⟩,
    _, _, _⟩ := h
  cases t
  subst_vars
  rfl

/-- Settles O53: a disabled unit's pass is the identity, and so is a run of passes. -/
theorem disabledUnitsFrozen : Obligations.DisabledUnitsFrozen := by
  refine ⟨fun s v ch => ⟨fun h => ?_, fun h => ?_, fun h => ?_, fun h => ?_⟩, fun s t payload hpush => ?_⟩
  · rw [stageCmp_eq, CmpUnit.pass_of_disabled h]
  · rw [stageRvb_eq, RvbUnit.pass_of_disabled h]
  · rw [stageBq_eq, BqUnit.pass_of_disabled h]
  · rw [stageVol_eq, VolUnit.pass_of_disabled h]
  · cases hp : s.phase with
    | idle =>
      obtain rfl := Host.Outcome.next.inj ((exec_ctlPush_of_idle hp payload).symm.trans hpush)
      exact ⟨fun _ => rfl, fun _ => rfl, fun _ => rfl, rfl⟩
    | active =>
      obtain rfl := Host.Outcome.next.inj ((exec_ctlPush_of_active hp payload).symm.trans hpush)
      rw [pushChunk_eq rfl]
      exact ⟨fun h => processFrames_cmp_of_disabled _ h, fun h => processFrames_rvb_of_disabled _ h,
        fun h => processFrames_bq_of_disabled _ h, (processFrames_same _ _).vol⟩

/-- Settles O47: the whole next state from `SameButRunning.eq`, each unit's frame from its run of passes. -/
theorem pushEffectAndFrame : Obligations.PushEffectAndFrame := by
  intro s payload
  refine ⟨fun hidle => exec_ctlPush_of_idle hidle payload, fun hact hs => ?_, fun hact => ?_⟩
  · exact exec_ctlPush_of_track_nil hact (by rw [List.append_nil]; exact track_left hs)
  intro e r n cur len
  let mid : State := { s with seek := e.2 }
  refine ⟨exec_ctlPush_of_track hact rfl, length_processFrames e.1 mid, fun hnil => ?_,
    (processFrames_same e.1 mid).eq,
    processFrames_cmp_of_disabled (s := mid) e.1, fun k hk => processFrames_hist (s := mid) e.1 hk,
    processFrames_rvb_of_disabled (s := mid) e.1, fun hcur =>
      ⟨fun hen => (processFrames_swept (s := mid) e.1 hen hcur).cursor, fun a ha => ?_⟩⟩
  · show processFrames e.1 mid = _
    rw [hnil, processFrames_nil]
  · cases hen : s.rvb.en with
    | false =>
      exact congrArg (·.line.read a) (processFrames_rvb_of_disabled (s := mid) e.1 hen)
    | true => exact (processFrames_swept (s := mid) e.1 hen hcur).line a ha

end Sys2Proof.Machine
end

section
/-!
Two PUSHes whose output is known: with every unit disabled the whole frames (R464, R920), and one frame
through the chain sample by sample (R460, R461).
-/

namespace Sys2Proof.Machine

/-! ### The tracker's three outcomes (R920) -/

section
variable {g : Geometry} {u : SeekUnit} {buf : List Byte}

theorem track_of_noPend (hpend : u.pend = none) :
    track g u buf =
      (buf.take (buf.length / g.frameBytes * g.frameBytes),
        { u with
          pos := BitVec.ofNat 64 (u.pos.toNat + buf.length / g.frameBytes * g.chans)
          left := buf.drop (buf.length / g.frameBytes * g.frameBytes) }) := by
  simp only [track, hpend]

theorem track_of_pend_ahead {p : Word} (hpend : u.pend = some p)
    (h : u.pos.toNat + buf.length / g.frameBytes * g.chans ≤ p.toNat) :
    track g u buf =
      ([], { u with
          pos := BitVec.ofNat 64 (u.pos.toNat + buf.length / g.frameBytes * g.chans)
          left := buf.drop (buf.length / g.frameBytes * g.frameBytes) }) := by
  simp only [track, hpend, if_pos h]

theorem track_of_pend_inside {p : Word} (hpend : u.pend = some p)
    (h : p.toNat < u.pos.toNat + buf.length / g.frameBytes * g.chans) :
    track g u buf =
      ((buf.take (buf.length / g.frameBytes * g.frameBytes)).drop
          ((p.toNat - u.pos.toNat) * g.byteWidth),
        { u with
          pos := BitVec.ofNat 64 (u.pos.toNat + buf.length / g.frameBytes * g.chans)
          pend := none
          left := buf.drop (buf.length / g.frameBytes * g.frameBytes) }) := by
  simp only [track, hpend, if_neg (Nat.not_le.2 h)]

end

/-! ### Every unit disabled -/

/-- Each sample is written back to the bytes it was read from. -/
theorem processSamples_of_allDisabled {s : State} (h : s.allDisabled) {count : Nat} (j : Nat)
    {buf : List Byte} (hlen : count * s.geo.byteWidth ≤ buf.length) :
    processSamples count j buf s = (buf, s) := by
  induction count generalizing j buf with
  | zero => rfl
  | succ count ih =>
    rw [Nat.succ_mul] at hlen
    have htail : count * s.geo.byteWidth ≤ (buf.drop s.geo.byteWidth).length := by
      rw [List.length_drop]
      omega
    have hsample : (buf.take s.geo.byteWidth).length = s.geo.byteWidth :=
      List.length_take_of_le (by omega)
    simp only [processSamples, stageChain_of_allDisabled h, ih _ htail,
      bytesOfSample_sampleOfBytes hsample, List.take_append_drop]

/-- What the tracker lets through is appended to OUT as it is. -/
theorem exec_ctlPush_of_allDisabled {s : State} (hact : s.phase = .active) (h : s.allDisabled)
    {payload e : List Byte} {u : SeekUnit}
    (htrack : track s.geo s.seek (s.seek.left ++ payload) = (e, u)) :
    exec (.ctlPush payload) s =
      .next ({ s with out := s.out ++ e, seek := u } : State).completed := by
  have hsame : processFrames e { s with seek := u } = (e, { s with seek := u }) :=
    processSamples_of_allDisabled (s := { s with seek := u }) h 0 (Nat.div_mul_le_self _ _)
  rw [exec_ctlPush_of_track hact htrack, hsame]

/-- Settles O49: the tracker's outcomes, each with the identity of the disabled chain. -/
theorem passthroughWhenDisabled : Obligations.PassthroughWhenDisabled := by
  intro s payload hact hoff
  exact ⟨fun hpend => exec_ctlPush_of_allDisabled hact hoff (track_of_noPend hpend),
    fun p hpend hstop => exec_ctlPush_of_track_nil hact (track_of_pend_ahead hpend hstop),
    fun p hpend hstop => exec_ctlPush_of_allDisabled hact hoff (track_of_pend_inside hpend hstop)⟩

/-! ### One frame through the chain -/

/-- One turn of the sample loop over a frame: the bytes written and the state so far, and after the
sample of value `p.1` of channel `p.2`. -/
def chainStep (g : Geometry) (acc : List Byte × State) (p : Int × Nat) : List Byte × State :=
  (acc.1 ++ bytesOfSample g (acc.2.passes g.extremum p.2 p.1).1, (acc.2.passes g.extremum p.2 p.1).2)

/-- The loop over written samples, from sample `j` of a frame on, is turn after turn. -/
theorem foldl_chainStep {g : Geometry} {t : State} (hg : t.geo = g) {vs : List Int} {j : Nat}
    (hchans : j + vs.length ≤ g.chans) (hrange : ∀ v ∈ vs, g.bitdepth.inRange v) (done : List Byte) :
    (vs.zipIdx j).foldl (chainStep g) (done, t) =
      (done ++ (processSamples vs.length j (vs.flatMap (bytesOfSample g)) t).1,
        (processSamples vs.length j (vs.flatMap (bytesOfSample g)) t).2) := by
  subst hg
  induction vs generalizing j t done with
  | nil => simp [processSamples]
  | cons v vs ih =>
    obtain ⟨hv, hvs⟩ := List.forall_mem_cons.1 hrange
    rw [List.length_cons] at hchans
    have hchan : j % t.geo.chans = j := Nat.mod_eq_of_lt (by omega)
    have hgeo := (stageChain_same j v t).geo
    have hrest := ih (t := (stageChain j v t).2) (j := j + 1)
      (done ++ bytesOfSample t.geo (stageChain j v t).1) (by rw [hgeo]; omega) (by rwa [hgeo])
    rw [hgeo] at hrest
    simp only [List.zipIdx_cons, List.foldl_cons, chainStep, ← stageChain_eq, List.length_cons,
      List.flatMap_cons, processSamples, hchan, List.take_left' (length_bytesOfSample _ _),
      List.drop_left' (length_bytesOfSample _ _), sampleOfBytes_bytesOfSample hv]
    rw [hrest, List.append_assoc]

theorem processSamples_with_seek (count j : Nat) (buf : List Byte) (s : State) (u : SeekUnit) :
    processSamples count j buf { s with seek := u } =
      ((processSamples count j buf s).1, { (processSamples count j buf s).2 with seek := u }) := by
  induction count generalizing j buf s with
  | zero => rfl
  | succ count ih => simp only [processSamples, stageChain_with_seek, ih]

theorem processFrames_with_seek (e : List Byte) (s : State) (u : SeekUnit) :
    processFrames e { s with seek := u } =
      ((processFrames e s).1, { (processFrames e s).2 with seek := u }) :=
  processSamples_with_seek _ _ _ _ _

/-- A frame's bytes with nothing left over and no target pending: all go in, and the position moves by one
sample a channel. -/
theorem track_frame {g : Geometry} {u : SeekUnit} {buf : List Byte} (hpend : u.pend = none)
    (hlen : buf.length = g.frameBytes) :
    track g u buf = (buf, { u with pos := u.pos + g.channels, left := [] }) := by
  have hwhole : buf.length / g.frameBytes * g.frameBytes = buf.length := by
    rw [hlen, Nat.div_mul_cancel (dvd_refl _)]
  have hmoved : buf.length / g.frameBytes * g.chans = g.chans := by
    rcases Nat.eq_zero_or_pos g.chans with hzero | hpos
    · rw [hzero, Nat.mul_zero]
    · rw [hlen, Nat.div_self (hpos.trans_le (chans_le_frameBytes g)), Nat.one_mul]
  have hpos : BitVec.ofNat 64 (u.pos.toNat + g.chans) = u.pos + g.channels := by
    rw [BitVec.ofNat_add, BitVec.ofNat_toNat, Geometry.chans, BitVec.ofNat_toNat, BitVec.setWidth_eq,
      BitVec.setWidth_eq]
  rw [track_of_noPend hpend, hwhole, hmoved, hpos, List.take_length, List.drop_length]

theorem length_flatMap_bytesOfSample (g : Geometry) (vs : List Int) :
    (vs.flatMap (bytesOfSample g)).length = g.byteWidth * vs.length := by
  simp [List.length_flatMap, Nat.mul_comm]

/-- Settles O48: the loop of the statement is the fold of `chainStep`. -/
theorem pushOneFrameThroughChain : Obligations.PushOneFrameThroughChain := by
  intro s vs hact hlen hleft hpend hrange ext chain r
  have hbuf : (vs.flatMap (bytesOfSample s.geo)).length = s.geo.frameBytes := by
    rw [length_flatMap_bytesOfSample, hlen, Geometry.frameBytes]
  have hcount : (vs.flatMap (bytesOfSample s.geo)).length / s.geo.byteWidth = vs.length := by
    rw [length_flatMap_bytesOfSample, Nat.mul_div_cancel_left _ (one_le_byteWidth s.geo)]
  have hloop : r = processFrames (vs.flatMap (bytesOfSample s.geo)) s := by
    rw [processFrames, hcount]
    exact foldl_chainStep rfl (by omega) hrange []
  have htrack := track_frame hpend hbuf
  rw [← List.nil_append (vs.flatMap _), ← hleft] at htrack
  rw [exec_ctlPush_of_track hact htrack, hleft, List.nil_append, processFrames_with_seek, ← hloop]

end Sys2Proof.Machine
end

section
/-!
One BQ step (R520): the channel's history after it, and what NONE's coefficients make of a sample (R513).
-/

namespace Sys2Proof.Machine

/-! ### A stored NaN is a NaN (I12) -/

/-- The NaN patterns are those whose 63 low bits lie above the infinity's. -/
theorem f64IsNaN_iff_low {x : F64} : f64IsNaN x = true ↔ 2047 * 2 ^ 52 < f64Low x := by
  rw [f64IsNaN_iff, f64Unpack_eq]
  split_ifs with hfin hinf
  · simpa only [false_iff, not_lt] using hfin.le
  · simpa only [false_iff, not_lt] using hinf.le
  · simp only [true_iff]
    omega

theorem f64Low_or (x y : F64) : f64Low (x ||| y) = f64Low x ||| f64Low y := by
  rw [f64Low, BitVec.toNat_or, Nat.or_mod_two_pow, f64Low, f64Low]

/-- With the exponent bits set, a fraction other than 0 is left or put in. -/
theorem f64IsNaN_freeNan (n : Nat) : f64IsNaN (Config.freeNan n) = true := by
  have hexp (a : F64) : 2047 * 2 ^ 52 ≤ f64Low (a ||| 0x7FF0000000000000#64) := by
    rw [f64Low_or]
    exact Nat.right_le_or
  rw [f64IsNaN_iff_low, Config.freeNan]
  specialize hexp (Config.nanSeed n)
  generalize Config.nanSeed n ||| 0x7FF0000000000000#64 = v at hexp ⊢
  have hfrac : v.toNat % 2 ^ 52 = f64Low v % 2 ^ 52 := by
    unfold f64Low
    omega
  simp only [hfrac]
  split
  next hzero =>
    have hput : f64Low v ||| 2 ^ 51 = f64Low v + 2 ^ 51 := by
      rw [← Nat.div_add_mod (f64Low v) (2 ^ 52), hzero, Nat.add_zero,
        Nat.two_pow_add_eq_or_of_lt (by decide)]
    rw [f64Low_or, show f64Low 0x0008000000000000#64 = 2 ^ 51 by decide, hput]
    omega
  next hleft => omega

/-- What is stored for a NaN is a NaN. -/
theorem f64IsNaN_settle {v : F64} (h : f64IsNaN v = true) (free : Nat) :
    f64IsNaN (settle v free).1 = true := by
  rw [settle_of_nan h]
  exact f64IsNaN_freeNan free

/-! ### The history after a step (R520) -/

/-- What any cell reads after a write. -/
theorem Memory.read_write {m : Memory} (h : m.wf) (k j : Nat) (v : F64) :
    (m.write k v).read j = if j = k then v else m.read j := by
  split
  next hj => rw [hj, Memory.read_write_same h]
  next hj => exact Memory.read_write_other m v hj

/-- The unquantised output of BQ on input `x` of channel `ch`. -/
def BqUnit.output (u : BqUnit) (ch : Nat) (x : F64) : F64 :=
  biquadOutput u.coeffs x (u.hist.read (4 * ch)) (u.hist.read (4 * ch + 1)) (u.hist.read (4 * ch + 2))
    (u.hist.read (4 * ch + 3))

section
variable (ext : Nat) (u : BqUnit) (ch : Nat) (v : Int) (free : Nat)

theorem bqStep_sample : (bqStep ext u ch v free).1 = quant ext (u.output ch (toF64 v)) := rfl

theorem bqStep_free : (bqStep ext u ch v free).2.2 = (settle (u.output ch (toF64 v)) free).2 := rfl

variable {u}

/-- The four cells of the channel: X1 and X2 shifted under the input, Y1 and Y2 under the output as it is
stored. -/
theorem bqStep_history (hwf : u.hist.wf) :
    let hist := (bqStep ext u ch v free).2.1.hist
    hist.read (4 * ch) = toF64 v ∧ hist.read (4 * ch + 1) = u.hist.read (4 * ch) ∧
      hist.read (4 * ch + 2) = (settle (u.output ch (toF64 v)) free).1 ∧
      hist.read (4 * ch + 3) = u.hist.read (4 * ch + 2) := by
  have hX2 := Memory.wf_write hwf (4 * ch + 1) (u.hist.read (4 * ch))
  have hX1 := Memory.wf_write hX2 (4 * ch) (toF64 v)
  have hY2 := Memory.wf_write hX1 (4 * ch + 3) (u.hist.read (4 * ch + 2))
  simp [bqStep, BqUnit.output, Memory.read_write hY2, Memory.read_write hX1, Memory.read_write hX2,
    Memory.read_write hwf]

end

/-- Settles O32: Y1 reads back the output, or the NaN that stands for one. -/
theorem bqHistoryShift : Obligations.BqHistoryShift := by
  intro ext u ch v free hwf c x x1 x2 y1 y2 y r
  obtain ⟨hist, hkeeps, hunit⟩ := bqStep_unit ext u ch v free
  obtain ⟨hX1, hX2, hY1, hY2⟩ := bqStep_history ext ch v free hwf
  refine ⟨bqStep_sample ext u ch v free, hX1, hX2, hY2, fun hnum => ?_, fun hnan => ?_,
    fun k hk => bqStep_read_other ext u ch v free hk, ?_, ?_⟩
  · exact hY1.trans (congrArg Prod.fst (settle_of_not_nan hnum free))
  · exact (congrArg f64IsNaN hY1).trans (f64IsNaN_settle hnan free)
  · rw [hunit]
    exact hkeeps hwf
  · rw [hunit]

/-! ### Exact sums and products (R14) -/

theorem roundEven_mul_right (num unit : Nat) {d : Nat} (hd : 0 < d) :
    roundEven (num * d) (unit * d) = roundEven num unit := by
  have hcancel (a b : Nat) : a * d < 2 * (b * d) ↔ a < 2 * b := by
    rw [← Nat.mul_assoc, Nat.mul_lt_mul_right hd]
  have hcancel' (a b : Nat) : a * d = 2 * (b * d) ↔ a = 2 * b := by
    rw [← Nat.mul_assoc, Nat.mul_left_inj hd.ne']
  simp only [roundEven, Nat.mul_div_mul_right _ _ hd, Nat.mul_mod_mul_right, hcancel, hcancel']

/-- A common factor of numerator and denominator does not change the rounding. -/
theorem f64Round_mul_right (neg : Bool) (num den : Nat) {d : Nat} (hd : 0 < d) :
    f64Round neg (num * d) (den * d) = f64Round neg num den := by
  have hbinade : roundBinade (num * d) (den * d) = roundBinade num den := by
    rw [roundBinade, Nat.mul_div_mul_right _ _ hd, roundBinade]
  have hsig : roundSig (num * d) (den * d) = roundSig num den := by
    rw [roundSig, hbinade, Nat.shiftLeft_eq, Nat.mul_right_comm, roundEven_mul_right _ _ hd, roundSig,
      Nat.shiftLeft_eq]
  rw [f64Round_eq, f64Round_eq, hbinade, hsig]

theorem log2_two_pow_add {n k : Nat} (h : k < 2 ^ n) (j : Nat) :
    Nat.log2 ((2 ^ n + k) * 2 ^ j) = n + j := by
  rw [Nat.log2_eq_iff (by positivity), pow_add, pow_succ, pow_add, Nat.mul_right_comm]
  exact ⟨Nat.mul_le_mul_right _ (by omega), Nat.mul_lt_mul_of_pos_right (by omega) (by positivity)⟩

/-- The quanta of 63 low bits round to these bits. -/
theorem f64Round_magOfLow (neg : Bool) {low : Nat} (h : low < 2047 * 2 ^ 52) :
    f64Round neg (magOfLow low) 1 = f64Pack neg low := by
  have hexact : roundBinade (magOfLow low) 1 * 2 ^ 52 + roundSig (magOfLow low) 1 = low := by
    unfold roundSig roundBinade magOfLow
    split
    next he =>
      have hlog : Nat.log2 (low % 2 ^ 52) < 52 + 1 := by
        rcases Nat.eq_zero_or_pos (low % 2 ^ 52) with h0 | hpos
        · rw [h0, Nat.log2_zero]
          decide
        · exact (Nat.log2_lt hpos.ne').2 (by omega)
      have hone := roundEven_exact (n := low % 2 ^ 52) one_pos
      rw [Nat.mul_one] at hone
      rw [Nat.div_one, Nat.sub_eq_zero_of_le (Nat.le_of_lt_succ hlog), Nat.shiftLeft_zero, hone]
      omega
    next he =>
      rw [Nat.div_one, log2_two_pow_add (Nat.mod_lt _ (by decide)), Nat.add_sub_cancel_left,
        Nat.one_shiftLeft, roundEven_exact (by positivity)]
      omega
  rw [f64Round_eq, hexact, Nat.min_eq_left h.le]

/-- A finite number's own quanta round to it. -/
theorem f64Round_of_fin {x : F64} {s : Bool} {m : Nat} (hx : f64Unpack x = .fin s m) :
    f64Round s m 1 = x := by
  obtain ⟨rfl, hlow, rfl⟩ := low_of_fin hx
  rw [f64Round_magOfLow _ hlow, f64Pack_sign_low]

theorem natAbs_signedMag (s : Bool) (m : Nat) : (signedMag s m).natAbs = m := by
  cases s <;> simp [signedMag]

theorem decide_signedMag_lt_zero {s : Bool} {m : Nat} (hm : m ≠ 0) :
    decide (signedMag s m < 0) = s := by
  cases s <;> simp [signedMag, Nat.pos_of_ne_zero hm]

section
variable {x y : F64} {s t : Bool} {m : Nat}

theorem f64Unpack_one : f64Unpack f64One = .fin false f64Quanta := by
  rw [f64Quanta_eq]
  decide +kernel

/-- 1 · x is x. -/
theorem fmul_one_fin (hx : f64Unpack x = .fin s m) : fmul f64One x = x := by
  have hcancel := f64Round_mul_right s m 1 f64Quanta_pos
  rw [Nat.one_mul] at hcancel
  rw [fmul_fin f64Unpack_one hx, Bool.false_xor, Nat.mul_comm, hcancel, f64Round_of_fin hx]

/-- 0 · x is a zero. -/
theorem f64Unpack_fmul_zero (hx : f64Unpack x = .fin s m) :
    f64Unpack (fmul f64Zero x) = .fin s 0 := by
  rw [fmul_comm, fmul_fin_zero hx f64Unpack_zero, Bool.xor_false]
  exact f64Unpack_pack s (by decide)

/-- A zero of either sign added to a number other than −0 changes nothing. -/
theorem fadd_zero_fin (hx : f64Unpack x = .fin s m) (hsign : m = 0 → s = false)
    (hy : f64Unpack y = .fin t 0) : fadd x y = x := by
  have hsum : signedMag s m + signedMag t 0 = signedMag s m := by
    rw [signedMag_eq_zero.2 rfl, Int.add_zero]
  rw [fadd_fin hx hy, hsum]
  split
  next hm =>
    obtain rfl := signedMag_eq_zero.1 hm
    obtain rfl := hsign rfl
    exact (eq_zero_of_fin_zero hx).symm
  next hm =>
    rw [decide_signedMag_lt_zero (mt signedMag_eq_zero.2 hm), natAbs_signedMag, f64Round_of_fin hx]

theorem fsub_zero_fin (hx : f64Unpack x = .fin s m) (hsign : m = 0 → s = false)
    (hy : f64Unpack y = .fin t 0) : fsub x y = x :=
  fadd_zero_fin hx hsign (f64Unpack_fneg_fin hy)

end

/-! ### NONE (R513) -/

/-- With NONE's coefficients the terms of a finite history are zeros, and the input is the sum. -/
theorem biquadOutput_designNone {x x1 x2 y1 y2 : F64} {s : Bool} {m : Nat} (hx : f64Unpack x = .fin s m)
    (hsign : m = 0 → s = false) (hx1 : f64IsFinite x1 = true) (hx2 : f64IsFinite x2 = true)
    (hy1 : f64IsFinite y1 = true) (hy2 : f64IsFinite y2 = true) :
    biquadOutput designNone x x1 x2 y1 y2 = x := by
  have hterm {z : F64} (hz : f64IsFinite z = true) : ∃ t, f64Unpack (fmul f64Zero z) = .fin t 0 := by
    obtain ⟨t, n, hu⟩ := f64IsFinite_iff.1 hz
    exact ⟨t, f64Unpack_fmul_zero hu⟩
  obtain ⟨_, hx1⟩ := hterm hx1
  obtain ⟨_, hx2⟩ := hterm hx2
  obtain ⟨_, hy1⟩ := hterm hy1
  obtain ⟨_, hy2⟩ := hterm hy2
  simp only [biquadOutput, designNone, fmul_one_fin hx, fadd_zero_fin hx hsign hx1,
    fadd_zero_fin hx hsign hx2, fsub_zero_fin hx hsign hy1, fsub_zero_fin hx hsign hy2]

theorem BitDepth.natAbs_le_of_inRange {d : BitDepth} {v : Int} (h : d.inRange v) :
    v.natAbs ≤ 2 ^ 53 := by
  have := d.ext_bounds
  obtain ⟨hlo, hhi⟩ := h
  omega

/-- A sample in range is quantised to itself. -/
theorem quant_toF64 {d : BitDepth} {v : Int} (h : d.inRange v) : quant d.ext (toF64 v) = v := by
  rw [quant_of_rat (f64Rat_toF64 (BitDepth.natAbs_le_of_inRange h)) d.ext_bounds, Int.floor_intCast,
    Int.ceil_intCast, ite_self]
  obtain ⟨hlo, hhi⟩ := h
  split_ifs with hbelow habove
  · exact hlo.antisymm (by exact_mod_cast hbelow)
  · exact le_antisymm (by exact_mod_cast habove) hhi
  · rfl

/-- A unit with NONE's coefficients and a finite history puts out what comes in. -/
theorem BqUnit.output_of_none {u : BqUnit} (hc : u.coeffs = designNone) {ch : Nat}
    (hfin : ∀ k, k < 4 → f64IsFinite (u.hist.read (4 * ch + k)) = true) (v : Int) :
    u.output ch (toF64 v) = toF64 v := by
  obtain ⟨m, hx, hpos⟩ := toF64_cases v
  rw [BqUnit.output, hc]
  refine biquadOutput_designNone hx (fun hm => decide_eq_false fun hneg => ?_) (hfin 0 (by decide))
    (hfin 1 (by decide)) (hfin 2 (by decide)) (hfin 3 (by decide))
  have := hpos hneg.ne
  omega

/-- Settles O33: the output is the input, which is no NaN and which `quant` gives back. -/
theorem bqNoneIsIdentity : Obligations.BqNoneIsIdentity := by
  refine ⟨fun fs f q g => rfl, fun d u ch v free hv hwf hc hfin => ?_⟩
  have hout := BqUnit.output_of_none hc hfin v
  have hkept := settle_of_not_nan (f64IsNaN_of_finite (f64IsFinite_toF64 v)) free
  obtain ⟨-, -, hY1, -⟩ := bqStep_history d.ext ch v free hwf
  rw [bqStep_sample, bqStep_free, hY1, hout, hkept]
  exact ⟨quant_toF64 hv, rfl, rfl⟩

end Sys2Proof.Machine
end

section
/-!
The BQ setters (R530 to R533), the enables and disables of the four units, and the reference designs (R512
to R524). The setters are one operation, `setBq`, over their operand checks.
-/

namespace Sys2Proof.Machine

/-! ### The operand checks, each as one condition -/

theorem filterTypeOperand_of_bad {v : Word} (h : 10 < v.toNat) :
    filterTypeOperand v = .error .badFilterType := by
  cases hv : filterTypeOperand v with
  | error e => rw [(filterTypeOperand_eq_error hv).2]
  | ok t =>
    rw [filterTypeOperand_eq_ok hv] at h
    cases t <;> exact absurd h (by decide)

theorem freqOperand_eq (v rateF : F64) :
    freqOperand v rateF =
      if f64IsFinite v = false ∨ flt v f64Zero = true ∨ flt rateF (fmul f64Two (plusZero v)) = true then
        .error .badFrequency
      else .ok (plusZero v) := by
  simp only [freqOperand, ite_or]

theorem qOperand_eq (v : F64) :
    qOperand v =
      if f64IsFinite v = false ∨ flt f64Zero v = false then .error .badQ else .ok v := by
  cases hpos : flt f64Zero v <;> simp [qOperand, hpos]

theorem gainOperand_eq (v : F64) :
    gainOperand v = if f64IsFinite v = false then .error .badParam else .ok v := by
  cases hfin : f64IsFinite v <;> simp [gainOperand, hfin]

/-! ### A setter: the operand check, the parameter, the design (R510) -/

/-- The coefficients the design gives a unit's parameters. -/
def BqUnit.designed (u : BqUnit) (fs : F64) : Coeffs := design u.type fs u.freq u.q u.gain

/-- `s` after a setter gave BQ the parameters of `u`, with an event of register `addr` and `value`: where
the design is finite its coefficients are written with them, else nothing is. -/
def State.withBqParams (s : State) (u : BqUnit) (addr : BitVec 16) (value : Word) : State :=
  if (u.designed s.geo.rateF).finite = true then
    ({ s with bq := { u with coeffs := u.designed s.geo.rateF } } : State).reconfigured addr value
  else s.rejected .badParam

/-- A BQ setter of register `addr`: `param` is the unit with the checked operand in its register, `value`
what the event shows. -/
def setBq {α : Type} (operand : Except ErrCode α) (param : α → BqUnit) (addr : BitVec 16)
    (value : α → Word) (s : State) : Result :=
  match operand with
  | .error e => raiseErr e s
  | .ok a =>
    match checkedDesign (param a).type s.geo.rateF (param a).freq (param a).q (param a).gain with
    | .error e => raiseErr e s
    | .ok c => succeedReconfig addr (value a) { s with bq := { param a with coeffs := c } }

section
variable {α : Type} {param : α → BqUnit} {addr : BitVec 16} {value : α → Word} {s : State}

theorem setBq_error {e : ErrCode} (he : e ≠ .ok) :
    setBq (.error e) param addr value s = .next (s.rejected e) :=
  raiseErr_eq he s

theorem setBq_ok (a : α) :
    setBq (.ok a) param addr value s = .next (s.withBqParams (param a) addr (value a)) := by
  simp only [setBq]
  split
  next e hc =>
    obtain ⟨hinf, rfl⟩ := checkedDesign_eq_error.1 hc
    rw [State.withBqParams, BqUnit.designed, if_neg (Bool.not_eq_true _ ▸ hinf)]
    exact raiseErr_eq (by decide) s
  next c hc =>
    obtain ⟨hfin, rfl⟩ := checkedDesign_eq_ok.1 hc
    rw [State.withBqParams, BqUnit.designed, if_pos hfin]
    exact succeedReconfig_eq _ _ _

theorem setBq_ite {bad : Prop} [Decidable bad] {e : ErrCode} (he : e ≠ .ok) (a : α) :
    setBq (if bad then .error e else .ok a) param addr value s =
      .next (if bad then s.rejected e else s.withBqParams (param a) addr (value a)) := by
  split
  · exact setBq_error he
  · exact setBq_ok a

end

section
variable (v : F64) (s : State)

theorem exec_bqSetType :
    exec (.bqSetType v) s =
      setBq (filterTypeOperand v) (fun t => { s.bq with type := t }) 0x0101 (fun _ => v) s := by
  simp only [exec, execBqSetType]
  cases filterTypeOperand v <;> rfl

theorem exec_bqSetFreq :
    exec (.bqSetFreq v) s =
      setBq (freqOperand v s.geo.rateF) (fun f => { s.bq with freq := f }) 0x0102 id s := by
  simp only [exec, execBqSetFreq]
  cases freqOperand v s.geo.rateF <;> rfl

theorem exec_bqSetQ :
    exec (.bqSetQ v) s = setBq (qOperand v) (fun q => { s.bq with q := q }) 0x0103 id s := by
  simp only [exec, execBqSetQ]
  cases qOperand v <;> rfl

theorem exec_bqSetGain :
    exec (.bqSetGain v) s = setBq (gainOperand v) (fun g => { s.bq with gain := g }) 0x0104 id s := by
  simp only [exec, execBqSetGain]
  cases gainOperand v <;> rfl

end

/-- Settles O29: each setter is `setBq` of its operand check. -/
theorem bqSetters : Obligations.BqSetters := by
  refine ⟨fun v => ⟨decodeCommand_toCommand (i := .bqSetType v) rfl,
    decodeCommand_toCommand (i := .bqSetFreq v) rfl, decodeCommand_toCommand (i := .bqSetQ v) rfl,
    decodeCommand_toCommand (i := .bqSetGain v) rfl⟩,
    fun s v => ⟨⟨fun hbad => ?_, fun t ht => ?_⟩, ?_, ?_, ?_⟩⟩
  · rw [exec_bqSetType, filterTypeOperand_of_bad hbad]
    exact setBq_error (by decide)
  · rw [exec_bqSetType, ht, filterTypeOperand_code]
    exact setBq_ok t
  · rw [exec_bqSetFreq, freqOperand_eq]
    exact setBq_ite (by decide) (plusZero v)
  · rw [exec_bqSetQ, qOperand_eq]
    exact setBq_ite (by decide) v
  · rw [exec_bqSetGain, gainOperand_eq]
    exact setBq_ite (by decide) v

/-! ### Enables and disables (R534, R535, R636, R637, R734, R735, R831, R832) -/

/-- Settles O30: each is the end of an accepted setter on the unit with its bit written. -/
theorem enableDisable : Obligations.EnableDisable :=
  ⟨⟨decodeCommand_toCommand (i := .bqEnable) rfl, decodeCommand_toCommand (i := .bqDisable) rfl,
    decodeCommand_toCommand (i := .cmpEnable) rfl, decodeCommand_toCommand (i := .cmpDisable) rfl,
    decodeCommand_toCommand (i := .rvbEnable) rfl, decodeCommand_toCommand (i := .rvbDisable) rfl,
    decodeCommand_toCommand (i := .volEnable) rfl, decodeCommand_toCommand (i := .volDisable) rfl⟩,
    fun _ => ⟨succeedReconfig_eq _ _ _, succeedReconfig_eq _ _ _, succeedReconfig_eq _ _ _,
      succeedReconfig_eq _ _ _, succeedReconfig_eq _ _ _, succeedReconfig_eq _ _ _,
      succeedReconfig_eq _ _ _, succeedReconfig_eq _ _ _⟩⟩

/-! ### The reference designs (R512 to R524) -/

/-- Settles O31: the ten formulas are the model's definitions, `A` being `designAmp g` and `byA0`
`normalised`. -/
theorem filterDesigns : Obligations.FilterDesigns := by
  intro fs f q g omega sn cs alpha A sA byA0
  exact ⟨rfl, rfl, rfl, rfl, rfl, rfl, rfl, rfl, rfl, rfl⟩

end Sys2Proof.Machine
end

section
/-!
The CMP setters (R630 to R635): one operation, `clampedSetter`, over the bounds of the clamp and the write.
-/

namespace Sys2Proof.Machine

/-- A clamping setter of register `addr`: `write` is the state with the clamped operand in its registers. -/
def clampedSetter (lo hi : F64) (write : F64 → State) (addr : BitVec 16) (v : F64) (s : State) : Result :=
  match clampedOperand v lo hi with
  | .error e => raiseErr e s
  | .ok x => succeedReconfig addr x (write x)

section
variable {lo hi v : F64} {write : F64 → State} {addr : BitVec 16} {s : State}

theorem clampedSetter_of_nan (h : f64IsNaN v = true) :
    clampedSetter lo hi write addr v s = .next (s.rejected .badParam) := by
  rw [clampedSetter, clampedOperand_eq_error.2 ⟨h, rfl⟩]
  exact raiseErr_eq (by decide) s

theorem clampedSetter_of_not_nan (h : f64IsNaN v = false) :
    clampedSetter lo hi write addr v s =
      .next ((write (clampF v lo hi)).reconfigured addr (clampF v lo hi)) := by
  rw [clampedSetter, clampedOperand_eq_ok.2 ⟨h, rfl⟩]
  exact succeedReconfig_eq _ _ _

end

section
variable (v : F64) (s : State)

theorem exec_cmpSetThreshold :
    exec (.cmpSetThreshold v) s =
      clampedSetter f64NegHundred f64Zero (fun t => { s with cmp := { s.cmp with threshold := t } })
        0x0201 v s := rfl

theorem exec_cmpSetRatio :
    exec (.cmpSetRatio v) s =
      clampedSetter f64One f64Inf (fun r => { s with cmp := { s.cmp with ratio := r } }) 0x0202 v s := rfl

theorem exec_cmpSetAttack :
    exec (.cmpSetAttack v) s =
      clampedSetter f64Zero f64Inf
        (fun ms => { s with cmp := { s.cmp with attackMs := ms, attackC := coefOf s.geo.rateF ms } })
        0x0203 v s := rfl

theorem exec_cmpSetRelease :
    exec (.cmpSetRelease v) s =
      clampedSetter f64Zero f64Inf
        (fun ms => { s with cmp := { s.cmp with releaseMs := ms, releaseC := coefOf s.geo.rateF ms } })
        0x0204 v s := rfl

theorem exec_cmpSetMakeup :
    exec (.cmpSetMakeup v) s =
      clampedSetter f64NegTwenty f64Twenty (fun m => { s with cmp := { s.cmp with makeup := m } })
        0x0205 v s := rfl

theorem exec_cmpSetKnee :
    exec (.cmpSetKnee v) s =
      clampedSetter f64Zero f64Twenty (fun k => { s with cmp := { s.cmp with knee := k } }) 0x0206 v s := rfl

end

/-- Settles O34: each setter is `clampedSetter` with its bounds and its write. -/
theorem cmpSetters : Obligations.CmpSetters := by
  refine ⟨fun v => ⟨decodeCommand_toCommand (i := .cmpSetThreshold v) rfl,
    decodeCommand_toCommand (i := .cmpSetRatio v) rfl, decodeCommand_toCommand (i := .cmpSetAttack v) rfl,
    decodeCommand_toCommand (i := .cmpSetRelease v) rfl, decodeCommand_toCommand (i := .cmpSetMakeup v) rfl,
    decodeCommand_toCommand (i := .cmpSetKnee v) rfl⟩, fun s v => ?_⟩
  rw [exec_cmpSetThreshold, exec_cmpSetRatio, exec_cmpSetAttack, exec_cmpSetRelease, exec_cmpSetMakeup,
    exec_cmpSetKnee]
  exact
    ⟨fun h => ⟨clampedSetter_of_nan h, clampedSetter_of_nan h, clampedSetter_of_nan h,
      clampedSetter_of_nan h, clampedSetter_of_nan h, clampedSetter_of_nan h⟩,
    fun h => ⟨clampedSetter_of_not_nan h, clampedSetter_of_not_nan h, clampedSetter_of_not_nan h,
      clampedSetter_of_not_nan h, clampedSetter_of_not_nan h, clampedSetter_of_not_nan h⟩⟩

end Sys2Proof.Machine
end

section
/-!
Numbers of a known size (R14): a half, an absolute value, and a rounded result against the exact one.
-/

namespace Sys2Proof.Machine

theorem f64Rat_zero : f64Rat f64Zero = some 0 := by
  rw [f64Rat_of_fin f64Unpack_zero, signedMag_eq_zero.2 rfl, Int.cast_zero, zero_div]

theorem f64Rat_two : f64Rat f64Two = some 2 := f64Rat_of_units f64Unpack_two

theorem f64Unpack_twenty : f64Unpack f64Twenty = .fin false (20 * f64Quanta) := by
  rw [f64Quanta_eq]
  decide +kernel

theorem f64Rat_twenty : f64Rat f64Twenty = some 20 := f64Rat_of_units f64Unpack_twenty

theorem f64IsFinite_iff_rat {x : F64} : f64IsFinite x = true ↔ ∃ a, f64Rat x = some a := by
  rw [f64IsFinite_iff]
  constructor
  · rintro ⟨s, m, hu⟩
    exact ⟨_, f64Rat_of_fin hu⟩
  · rintro ⟨a, ha⟩
    obtain ⟨s, m, hu, -⟩ := f64Rat_eq_some ha
    exact ⟨s, m, hu⟩

theorem f64Unpack_fabs_fin {x : F64} {s : Bool} {m : Nat} (h : f64Unpack x = .fin s m) :
    f64Unpack (fabs x) = .fin false m := by
  obtain ⟨-, hlow, rfl⟩ := low_of_fin h
  rw [fabs_eq_pack, f64Unpack_pack _ hlow]

theorem f64Rat_fabs {x : F64} {a : ℚ} (h : f64Rat x = some a) : f64Rat (fabs x) = some |a| := by
  obtain ⟨s, m, hu, rfl⟩ := f64Rat_eq_some h
  rw [f64Rat_of_fin (f64Unpack_fabs_fin hu), abs_div, abs_of_pos f64Quanta_rat_pos, ← Int.cast_abs,
    Int.abs_eq_natAbs, natAbs_signedMag]
  rfl

/-- What is nearest to a number far below the overflow bound is finite and at most twice as large, for 0 is
a candidate too. -/
theorem NearestEven.bounded {q c : ℚ} {z : F64} (h : NearestEven (q : ℝ) z) (hq : |q| ≤ c)
    (hc : c ≤ 2 ^ 200 := by norm_num) : ∃ v, f64Rat z = some v ∧ |v| ≤ 2 * c := by
  have hfar : |(q : ℝ)| < 2 ^ 1024 - 2 ^ 970 :=
    calc |(q : ℝ)| ≤ 2 ^ 200 := by exact_mod_cast hq.trans hc
      _ ≤ 2 ^ 970 := pow_le_pow_right₀ one_le_two (by decide)
      _ < 2 ^ (54 + 970) - 2 ^ 970 := by
        have hpos : (0 : ℝ) < 2 ^ 970 := by positivity
        rw [pow_add]
        generalize (2 : ℝ) ^ 970 = p at hpos ⊢
        linarith
  rw [NearestEven, if_pos hfar] at h
  obtain ⟨v, hv, hnear⟩ := h
  have hle : |v - q| ≤ |q| := by
    obtain ⟨hzero, -⟩ := hnear _ _ f64Rat_zero
    rw [Rat.cast_zero, zero_sub, abs_neg] at hzero
    exact_mod_cast hzero
  have htriangle := abs_sub_abs_le_abs_sub v q
  exact ⟨v, hv, by linarith⟩

/-- Half of a finite number is finite. -/
theorem f64IsFinite_half {x : F64} (h : f64IsFinite x = true) : f64IsFinite (fdiv x f64Two) = true := by
  obtain ⟨s, m, hu⟩ := f64IsFinite_iff.1 h
  obtain ⟨-, hlow, hm⟩ := low_of_fin hu
  have hround : fdiv x f64Two = f64Round s m 2 := by
    rw [fdiv_fin hu f64Unpack_two (Nat.mul_pos two_pos f64Quanta_pos).ne', Bool.xor_false,
      f64Round_mul_right _ _ _ f64Quanta_pos]
  have hlt : m / 2 < 2 ^ 2097 := by
    rw [Nat.div_lt_iff_lt_mul two_pos, ← pow_succ, hm]
    exact magOfLow_lt (j := 2046) hlow
  have hbinade : roundBinade m 2 ≤ 2044 := by
    unfold roundBinade
    rcases Nat.eq_zero_or_pos (m / 2) with h0 | hpos
    · rw [h0, Nat.log2_zero]
      decide
    · have := (Nat.log2_lt hpos.ne').2 hlt
      omega
  have hsig := roundSig_le m 2
  rw [hround]
  exact f64IsFinite_iff.2 ⟨_, _, f64Unpack_round s (by omega)⟩

theorem f64IsNaN_of_feq {x y : F64} (h : feq x y = true) : f64IsNaN x = false := by
  by_contra hnan
  rw [(compare_nan (.inl (Bool.eq_true_of_not_eq_false hnan))).2.2] at h
  cases h

theorem feq_self {x : F64} (h : f64IsNaN x = false) : feq x x = true := by
  obtain ⟨a, ha⟩ := f64Key_of_not_nan h
  rw [feq_eq_of_keys ha ha, decide_eq_true rfl]

/-- An infinity has one pattern. -/
theorem eq_infOf_of_inf {x : F64} {s : Bool} (h : f64Unpack x = .inf s) : x = f64InfOf s := by
  rw [f64Unpack_eq] at h
  split_ifs at h with hfin hinf
  rw [← f64Pack_sign_low x, hinf, F64Val.inf.inj h]
  rfl

/-- A zero of either sign added to a finite number gives a number equal to it. -/
theorem feq_fadd_zero {x y : F64} {s t : Bool} {m : Nat} (hx : f64Unpack x = .fin s m)
    (hy : f64Unpack y = .fin t 0) : feq (fadd x y) x = true := by
  rcases Nat.eq_zero_or_pos m with rfl | hm
  · have hsum : f64Unpack (fadd x y) = .fin (s && t) 0 := by
      rw [fadd_fin hx hy, signedMag_eq_zero.2 rfl, signedMag_eq_zero.2 rfl, if_pos (Int.add_zero 0)]
      exact f64Unpack_pack _ (by decide)
    rw [feq_eq_of_keys (f64Key_fin hsum) (f64Key_fin hx), signedMag_eq_zero.2 rfl, signedMag_eq_zero.2 rfl,
      decide_eq_true rfl]
  · rw [fadd_zero_fin hx (fun h0 => absurd h0 hm.ne') hy]
    exact feq_self (f64IsNaN_of_finite (f64IsFinite_iff.2 ⟨s, m, hx⟩))

/-- A finite number times +0 equals 0. -/
theorem feq_fmul_zero {x : F64} (h : f64IsFinite x = true) : feq (fmul x f64Zero) f64Zero = true := by
  obtain ⟨s, m, hu⟩ := f64IsFinite_iff.1 h
  rw [fmul_comm, feq_zero (f64Unpack_fmul_zero hu), decide_eq_true rfl]

/-- A number in finite bounds is finite. -/
theorem f64IsFinite_of_between {lo x hi : F64} (hlo : f64IsFinite lo = true) (hhi : f64IsFinite hi = true)
    (hlx : fle lo x = true) (hxh : fle x hi = true) : f64IsFinite x = true := by
  obtain ⟨sl, ml, hl⟩ := f64IsFinite_iff.1 hlo
  obtain ⟨sh, mh, hh⟩ := f64IsFinite_iff.1 hhi
  cases hu : f64Unpack x with
  | nan =>
    rw [(compare_nan (.inr (f64IsNaN_iff.2 hu))).2.1] at hlx
    cases hlx
  | inf s =>
    obtain rfl := eq_infOf_of_inf hu
    obtain ⟨-, hbelow, -⟩ := compare_fin_inf hl s
    obtain ⟨-, -, -, -, habove, -⟩ := compare_fin_inf hh s
    rw [hlx] at hbelow
    rw [hxh] at habove
    rw [← habove] at hbelow
    cases hbelow
  | fin s m => exact f64IsFinite_iff.2 ⟨s, m, hu⟩

end Sys2Proof.Machine
end

section
/-!
The gain computer (R612), region by region, and what it makes of an infinite ratio and of ratio 1.
-/

namespace Sys2Proof.Machine

/-! ### The regions -/

section
variable (formula : Config.KneeFormula) {threshold ratio knee level : F64}

theorem gainComputer_hardKnee (hin : fle (fabs (fsub level threshold)) (fdiv knee f64Two) = true)
    (hhard : feq knee f64Zero = true) : gainComputer formula threshold ratio knee level = f64Zero := by
  simp only [gainComputer, hin, hhard, if_true]

/-- The slope in the knee, in either reading. -/
def kneeSlope (formula : Config.KneeFormula) (ratio : F64) : F64 :=
  match formula with
  | .continuous => fsub f64One (fdiv f64One ratio)
  | .literal => fsub (fdiv f64One ratio) f64One

theorem gainComputer_knee (hin : fle (fabs (fsub level threshold)) (fdiv knee f64Two) = true)
    (hsoft : feq knee f64Zero = false) :
    gainComputer formula threshold ratio knee level =
      fdiv
        (fmul (kneeSlope formula ratio)
          (fmul (fadd (fsub level threshold) (fdiv knee f64Two))
            (fadd (fsub level threshold) (fdiv knee f64Two))))
        (fmul f64Two knee) := by
  simp only [gainComputer, hin, hsoft, if_true, Bool.false_eq_true, if_false]
  cases formula <;> rfl

theorem gainComputer_below (hout : fle (fabs (fsub level threshold)) (fdiv knee f64Two) = false)
    (hneg : flt (fsub level threshold) f64Zero = true) :
    gainComputer formula threshold ratio knee level = f64Zero := by
  simp only [gainComputer, hout, hneg, Bool.false_eq_true, if_false, if_true]

theorem gainComputer_above (hout : fle (fabs (fsub level threshold)) (fdiv knee f64Two) = false)
    (hpos : flt (fsub level threshold) f64Zero = false) :
    gainComputer formula threshold ratio knee level =
      fmul (fsub level threshold) (fsub f64One (fdiv f64One ratio)) := by
  simp only [gainComputer, hout, hpos, Bool.false_eq_true, if_false]

/-! ### Infinitely far below the threshold -/

/-- A knee width of at most 20 has no half that reaches +∞. -/
theorem not_inf_le_half {knee : F64} (h : fle knee f64Twenty = true) :
    fle (f64InfOf false) (fdiv knee f64Two) = false := by
  cases hu : f64Unpack knee with
  | nan =>
    rw [(compare_nan (.inl (f64IsNaN_iff.2 hu))).2.1] at h
    cases h
  | inf s =>
    obtain rfl := eq_infOf_of_inf hu
    obtain ⟨-, -, -, -, hle, -⟩ := compare_fin_inf f64Unpack_twenty s
    obtain rfl : s = true := hle.symm.trans h
    obtain ⟨-, -, -, hhalf⟩ := arith_fin_inf f64Unpack_two hu
    obtain ⟨-, hle, -⟩ := compare_inf_inf false true
    rwa [hhalf]
  | fin s m =>
    obtain ⟨t, n, hhalf⟩ := f64IsFinite_iff.1 (f64IsFinite_half (f64IsFinite_iff.2 ⟨s, m, hu⟩))
    obtain ⟨-, -, -, -, hle, -⟩ := compare_fin_inf hhalf false
    exact hle

theorem gainComputer_of_negInf (hd : fsub level threshold = f64InfOf true)
    (hknee : fle knee f64Twenty = true) : gainComputer formula threshold ratio knee level = f64Zero := by
  have habs : fabs (f64InfOf true) = f64InfOf false := by decide
  obtain ⟨-, -, -, hneg, -⟩ := compare_fin_inf f64Unpack_zero true
  refine gainComputer_below formula ?_ ?_
  · rw [hd, habs]
    exact not_inf_le_half hknee
  · rwa [hd]

/-! ### Ratio 1 -/

theorem slope_ratioOne : fsub f64One (fdiv f64One f64One) = f64Zero := by decide +kernel

theorem kneeSlope_ratioOne : kneeSlope formula f64One = f64Zero := by
  cases formula <;> decide +kernel

/-- A level in a knee of at most 20 is so near the threshold that the square of its way into the knee is
finite. -/
theorem f64Unpack_kneeSquare {d knee : F64} (hd : f64IsFinite d = true) (hk0 : fle f64Zero knee = true)
    (hk20 : fle knee f64Twenty = true) (hin : fle (fabs d) (fdiv knee f64Two) = true) :
    ∃ m, f64Unpack (fmul (fadd d (fdiv knee f64Two)) (fadd d (fdiv knee f64Two))) = .fin false m := by
  obtain ⟨a, ha⟩ := f64IsFinite_iff_rat.1 hd
  obtain ⟨k, hk⟩ := f64IsFinite_iff_rat.1 (f64IsFinite_of_between (by decide) (by decide) hk0 hk20)
  have hk_nonneg : 0 ≤ k := (fle_iff_le f64Rat_zero hk).1 hk0
  have hk_le : k ≤ 20 := (fle_iff_le hk f64Rat_twenty).1 hk20
  obtain ⟨r, hr, hr_le⟩ := (nearestEven_fdiv hk f64Rat_two two_ne_zero).bounded (c := 10)
    (by rw [abs_of_nonneg (by positivity)]; linarith)
  have ha_le : |a| ≤ r := (fle_iff_le (f64Rat_fabs ha) hr).1 hin
  obtain ⟨w, hw, hw_le⟩ := (nearestEven_fadd ha hr).bounded (c := 40)
    (by linarith [abs_add_le a r, le_abs_self r])
  obtain ⟨q, hq, -⟩ := (nearestEven_fmul hw hw).bounded (c := 80 * 80)
    (by rw [abs_mul]; exact mul_le_mul (by linarith) (by linarith) (abs_nonneg w) (by norm_num))
  obtain ⟨s, m, hu, -⟩ := f64Rat_eq_some hq
  obtain rfl : s = false := by rw [← f64Sign_of_fin hu, f64Sign_fmul hw hw, Bool.xor_self]
  exact ⟨m, hu⟩

/-- In the knee the reduction is 0 times a finite square, over twice the knee: +0. -/
theorem gainComputer_knee_ratioOne (hd : f64IsFinite (fsub level threshold) = true)
    (hk0 : fle f64Zero knee = true) (hk20 : fle knee f64Twenty = true)
    (hin : fle (fabs (fsub level threshold)) (fdiv knee f64Two) = true)
    (hsoft : feq knee f64Zero = false) :
    gainComputer formula threshold f64One knee level = f64Zero := by
  obtain ⟨m, hsquare⟩ := f64Unpack_kneeSquare hd hk0 hk20 hin
  have hfin := f64IsFinite_of_between (by decide) (by decide) hk0 hk20
  have hpos : flt f64Zero knee = true := by
    obtain ⟨k, hk⟩ := f64IsFinite_iff_rat.1 hfin
    have hne := mt (feq_iff_eq hk f64Rat_zero).2 (by rw [hsoft]; exact Bool.false_ne_true)
    exact (flt_iff_lt f64Rat_zero hk).2 (lt_of_le_of_ne ((fle_iff_le f64Rat_zero hk).1 hk0) (Ne.symm hne))
  rw [gainComputer_knee formula hin hsoft, kneeSlope_ratioOne, fmul_comm f64Zero,
    fmul_fin_zero hsquare f64Unpack_zero, Bool.xor_self, f64Pack_false_zero]
  -- +0 over twice a positive number, as in the biquad design's alpha
  exact designAlpha_zero hfin hpos

theorem gainComputer_ratioOne (hd : f64IsFinite (fsub level threshold) = true)
    (hk0 : fle f64Zero knee = true) (hk20 : fle knee f64Twenty = true) :
    feq (gainComputer formula threshold f64One knee level) f64Zero = true := by
  have hzero : feq f64Zero f64Zero = true := by decide
  cases hin : fle (fabs (fsub level threshold)) (fdiv knee f64Two) with
  | true =>
    cases hhard : feq knee f64Zero with
    | true => rwa [gainComputer_hardKnee formula hin hhard]
    | false => rwa [gainComputer_knee_ratioOne formula hd hk0 hk20 hin hhard]
  | false =>
    cases hneg : flt (fsub level threshold) f64Zero with
    | true => rwa [gainComputer_below formula hin hneg]
    | false =>
      rw [gainComputer_above formula hin hneg, slope_ratioOne]
      exact feq_fmul_zero hd

end

/-- Settles O36: the regions are the gain computer's branches, and with slope 0 each of them gives 0. -/
theorem gainComputerRegions : Obligations.GainComputerRegions := by
  refine ⟨rfl, fun formula threshold ratio knee level => ?_, by decide +kernel,
    fun formula threshold knee level hk0 hk20 hd => ?_⟩
  · refine ⟨gainComputer_hardKnee formula, fun hin hsoft hf => ?_, fun hin hsoft hf => ?_,
      gainComputer_below formula, gainComputer_above formula⟩
    · subst hf
      exact gainComputer_knee .continuous hin hsoft
    · subst hf
      exact gainComputer_knee .literal hin hsoft
  · rcases hd with hfin | hinf
    · exact gainComputer_ratioOne formula hfin hk0 hk20
    · rw [gainComputer_of_negInf formula hinf hk20]
      decide

end Sys2Proof.Machine
end

section
/-!
One CMP step (R610, R611, R613): the two smoothed registers, and the instant follower, whose coefficients
are 0.
-/

namespace Sys2Proof.Machine

/-! ### A stored value -/

/-- A number is stored as it is, a NaN as some NaN (I12). -/
theorem settle_fst (v : F64) (free : Nat) :
    (f64IsNaN v = false → (settle v free).1 = v) ∧
      (f64IsNaN v = true → f64IsNaN (settle v free).1 = true) :=
  ⟨fun h => by rw [settle_of_not_nan h], fun h => f64IsNaN_settle h free⟩

/-! ### The step's registers -/

/-- The magnitude `ax` of a sample that the envelope follows (R610). -/
def inputMagnitude (ext : Nat) (v : Int) : F64 := fabs (fdiv (toF64 v) (toF64 (ext : Int)))

/-- The gain reduction the unit's gain computer asks for at envelope `env` (R611, R612). -/
def CmpUnit.target (u : CmpUnit) (env : F64) : F64 :=
  gainComputer Config.kneeFormula u.threshold u.ratio u.knee (levelDb env)

theorem nextEnv_eq (u : CmpUnit) (ax : F64) :
    nextEnv u ax = smooth (if flt u.env ax = true then u.attackC else u.releaseC) u.env ax := by
  unfold nextEnv
  split <;> rfl

theorem cmpStep_env (ext : Nat) (u : CmpUnit) (v : Int) (free : Nat) :
    (cmpStep ext u v free).2.1.env = (settle (nextEnv u (inputMagnitude ext v)) free).1 := rfl

theorem cmpStep_gr (ext : Nat) (u : CmpUnit) (v : Int) (free : Nat) :
    ∃ free', (cmpStep ext u v free).2.1.gr =
      (settle (smooth u.attackC u.gr (u.target (cmpStep ext u v free).2.1.env)) free').1 := ⟨_, rfl⟩

/-! ### The instant follower -/

theorem fsub_one_zero : fsub f64One f64Zero = f64One := by decide +kernel

theorem fmul_one_of_not_nan {x : F64} (h : f64IsNaN x = false) : fmul f64One x = x := by
  cases hu : f64Unpack x with
  | nan =>
    rw [f64IsNaN_iff.2 hu] at h
    cases h
  | inf s =>
    rw [fmul_fin_inf f64Unpack_one hu, if_neg f64Quanta_pos.ne', Bool.false_xor, eq_infOf_of_inf hu]
  | fin s m => exact fmul_one_fin hu

/-- With coefficient 0 and a finite old value, what is left of the old value is a zero. -/
theorem smooth_zero_eq {old new : F64} (hold : f64IsFinite old = true) (hnew : f64IsNaN new = false) :
    ∃ z t, f64Unpack z = .fin t 0 ∧ smooth f64Zero old new = fadd new z := by
  obtain ⟨t, m, hu⟩ := f64IsFinite_iff.1 hold
  refine ⟨_, t, f64Unpack_fmul_zero hu, ?_⟩
  rw [smooth, fsub_one_zero, fmul_one_of_not_nan hnew, fadd_comm]

theorem smooth_zero_of_nonneg {old new : F64} {m : Nat} (hold : f64IsFinite old = true)
    (hnew : f64Unpack new = .fin false m) : smooth f64Zero old new = new := by
  obtain ⟨z, t, hz, hsmooth⟩ :=
    smooth_zero_eq hold (f64IsNaN_of_finite (f64IsFinite_iff.2 ⟨false, m, hnew⟩))
  rw [hsmooth, fadd_zero_fin hnew (fun _ => rfl) hz]

theorem feq_smooth_zero {old new : F64} (hold : f64IsFinite old = true) (hnew : f64IsNaN new = false) :
    feq (smooth f64Zero old new) new = true := by
  obtain ⟨z, t, hz, hsmooth⟩ := smooth_zero_eq hold hnew
  rw [hsmooth]
  cases hu : f64Unpack new with
  | nan =>
    rw [f64IsNaN_iff.2 hu] at hnew
    cases hnew
  | inf s =>
    rw [(arith_fin_inf hz hu).2.1, ← eq_infOf_of_inf hu]
    exact feq_self hnew
  | fin s m => exact feq_fadd_zero hu hz

/-- The magnitude of a sample in range is a finite number without a sign. -/
theorem f64Unpack_inputMagnitude {d : BitDepth} {v : Int} (hv : d.inRange v) :
    ∃ m, f64Unpack (inputMagnitude d.ext v) = .fin false m := by
  obtain ⟨hone, hext⟩ := d.ext_bounds
  obtain ⟨hlo, hhi⟩ := hv
  have hpos : (0 : ℚ) < d.ext := by exact_mod_cast hone
  have habs : |(v : ℚ)| ≤ d.ext := by
    have : |v| ≤ d.ext := abs_le.2 ⟨hlo, by omega⟩
    exact_mod_cast this
  have hquot : |(v : ℚ) / ((d.ext : Int) : ℚ)| ≤ 1 := by
    rw [Int.cast_natCast, abs_div, abs_of_pos hpos]
    exact (div_le_one hpos).2 habs
  obtain ⟨q, hq, -⟩ := (nearestEven_fdiv (f64Rat_toF64 (by omega)) (f64Rat_toF64 (by omega))
    (by rw [Int.cast_natCast]; exact hpos.ne')).bounded hquot
  obtain ⟨s, m, hu, -⟩ := f64Rat_eq_some hq
  exact ⟨m, f64Unpack_fabs_fin hu⟩

section
variable {d : BitDepth} {u : CmpUnit} {v : Int}

theorem cmpStep_env_of_instant (hv : d.inRange v) (ha : u.attackC = f64Zero) (hr : u.releaseC = f64Zero)
    (henv : f64IsFinite u.env = true) (free : Nat) :
    (cmpStep d.ext u v free).2.1.env = inputMagnitude d.ext v := by
  obtain ⟨m, hax⟩ := f64Unpack_inputMagnitude hv
  have hnum := f64IsNaN_of_finite (f64IsFinite_iff.2 ⟨false, m, hax⟩)
  rw [cmpStep_env, nextEnv_eq, ha, hr, ite_self, smooth_zero_of_nonneg henv hax, settle_of_not_nan hnum]

theorem cmpStep_gr_of_instant (ext : Nat) (ha : u.attackC = f64Zero) (hgr : f64IsFinite u.gr = true)
    (free : Nat) (hnum : f64IsNaN (u.target (cmpStep ext u v free).2.1.env) = false) :
    feq (cmpStep ext u v free).2.1.gr (u.target (cmpStep ext u v free).2.1.env) = true := by
  obtain ⟨free', hgr'⟩ := cmpStep_gr ext u v free
  have heq := feq_smooth_zero hgr hnum
  rw [hgr', ha, settle_of_not_nan (f64IsNaN_of_feq heq)]
  exact heq

end

/-- Settles O37: the registers are the settled smoothings, and with coefficients 0 what is left of the old
values is a zero. -/
theorem compressorStep : Obligations.CompressorStep := by
  refine ⟨fun ext u v free => ?_, fun d u v free hv ha hr henv hgr => ?_, ?_,
    fun formula threshold ratio knee hthr hknee => ?_⟩
  · intro ax c env r tgt gr
    obtain ⟨free', hgr'⟩ := cmpStep_gr ext u v free
    have henv' : r.2.1.env = (settle env free).1 := by
      rw [cmpStep_env, nextEnv_eq]
      rfl
    obtain ⟨henv, henvNaN⟩ := settle_fst env free
    obtain ⟨hgr, hgrNaN⟩ := settle_fst gr free'
    exact ⟨fun h => henv'.trans (henv h), fun h => henv' ▸ henvNaN h, fun h => hgr'.trans (hgr h),
      fun h => hgr' ▸ hgrNaN h, rfl, rfl⟩
  · have hax := cmpStep_env_of_instant hv ha hr henv free
    refine ⟨hax, fun hnum => ?_⟩
    have htarget := cmpStep_gr_of_instant (v := v) d.ext ha hgr free
    rw [hax] at htarget
    exact htarget hnum
  · rw [libmLog10_zero]
    decide +kernel
  · obtain ⟨s, m, hu⟩ := f64IsFinite_iff.1 hthr
    exact gainComputer_of_negInf formula (fsub_fin_inf hu (f64Unpack_infOf true)).2 hknee

end Sys2Proof.Machine
end

section
/-!
The RVB setters (R730 to R733): `clampedSetter` between 0 and 1, each writing its own parameter.
-/

namespace Sys2Proof.Machine

section
variable (v : F64) (s : State)

theorem exec_rvbSetRoom :
    exec (.rvbSetRoom v) s =
      clampedSetter f64Zero f64One (fun x => { s with rvb := { s.rvb with room := x } }) 0x0301 v s := rfl

theorem exec_rvbSetDamping :
    exec (.rvbSetDamping v) s =
      clampedSetter f64Zero f64One (fun x => { s with rvb := { s.rvb with damping := x } }) 0x0302 v s := rfl

theorem exec_rvbSetWet :
    exec (.rvbSetWet v) s =
      clampedSetter f64Zero f64One (fun x => { s with rvb := { s.rvb with wet := x } }) 0x0303 v s := rfl

theorem exec_rvbSetDry :
    exec (.rvbSetDry v) s =
      clampedSetter f64Zero f64One (fun x => { s with rvb := { s.rvb with dry := x } }) 0x0304 v s := rfl

end

/-- Settles O38: each setter is `clampedSetter` with its write. -/
theorem rvbSetters : Obligations.RvbSetters := by
  refine ⟨fun v => ⟨decodeCommand_toCommand (i := .rvbSetRoom v) rfl,
    decodeCommand_toCommand (i := .rvbSetDamping v) rfl, decodeCommand_toCommand (i := .rvbSetWet v) rfl,
    decodeCommand_toCommand (i := .rvbSetDry v) rfl⟩, fun s v => ?_⟩
  rw [exec_rvbSetRoom, exec_rvbSetDamping, exec_rvbSetWet, exec_rvbSetDry]
  exact
    ⟨fun h => ⟨clampedSetter_of_nan h, clampedSetter_of_nan h, clampedSetter_of_nan h,
      clampedSetter_of_nan h⟩,
    fun h => ⟨clampedSetter_of_not_nan h, clampedSetter_of_not_nan h, clampedSetter_of_not_nan h,
      clampedSetter_of_not_nan h⟩⟩

end Sys2Proof.Machine
end

section
/-!
One RVB step (R710): the line loop's cells and its wet sum, and the step with the wet part off (R712). The
loop reads a line's cell before any line that follows is written, and the cells at the cursor are one to a
line, so what it reads is what LINE held before the step.
-/

namespace Sys2Proof.Machine

/-! ### The line loop -/

/-- The cells at the cursor of two lines are two cells. -/
theorem lineCell_ne {len cur i j : Nat} (hlen : 0 < len) (h : i ≠ j) : i * len + cur ≠ j * len + cur :=
  fun heq => h (Nat.eq_of_mul_eq_mul_right hlen (Nat.add_right_cancel heq))

/-- The loop body for line `i` leaves the cell at the cursor of any other line. -/
theorem sweepLine_read_other (fb k x : F64) {len cur i j : Nat} (w : LineSweep) (hlen : 0 < len)
    (h : j ≠ i) :
    (sweepLine fb k x (i * len + cur) w).line.read (j * len + cur) = w.line.read (j * len + cur) :=
  Memory.read_write_other _ _ (lineCell_ne hlen h)

/-- What the loop leaves in the cell at the cursor of a line it runs over: the input plus the scaled
feedback of what the cell held, settled. -/
theorem sweepLines_read_cell (fb k x : F64) {len cur count i j : Nat} {w : LineSweep} (hwf : w.line.wf)
    (hlen : 0 < len) (hij : i ≤ j) (hj : j < i + count) :
    ∃ free, (sweepLines fb k x len cur count i w).line.read (j * len + cur) =
      (settle (fadd x (fmul (fmul (w.line.read (j * len + cur)) k) fb)) free).1 := by
  induction count generalizing i w with
  | zero => omega
  | succ count ih =>
    rw [sweepLines]
    rcases hij.eq_or_lt with rfl | hlt
    · rw [sweepLines_read_other _ _ _ _ _ _ _ _ fun j hj _ => lineCell_ne hlen (by omega)]
      exact ⟨w.free, Memory.read_write_same hwf _ _⟩
    · rw [← sweepLine_read_other fb k x w hlen hlt.ne']
      exact ih (Memory.wf_write hwf _ _) hlt (by omega)

/-- The loop's wet sum adds the scaled reads of the lines in rising order. -/
theorem sweepLines_wet (fb k x : F64) {len : Nat} (cur count i : Nat) (w : LineSweep) (hlen : 0 < len) :
    (sweepLines fb k x len cur count i w).wet =
      (List.range' i count).foldl (fun wet j => fadd wet (fmul (w.line.read (j * len + cur)) k)) w.wet := by
  induction count generalizing i w with
  | zero => rfl
  | succ count ih =>
    rw [sweepLines, ih, List.range'_succ, List.foldl_cons]
    refine List.foldl_ext _ _ _ fun wet j hj => ?_
    have hij : i < j := (List.mem_range'_1.1 hj).1
    rw [sweepLine_read_other fb k x w hlen hij.ne']

/-! ### The step -/

/-- The scale of a line's read: ROOM · (1 − DAMPING) (R710). -/
def RvbUnit.scale (u : RvbUnit) : F64 := fmul u.room (fsub f64One u.damping)

/-- The line loop of the unit's step on sample `v`. -/
def RvbUnit.sweep (u : RvbUnit) (n : Nat) (fb : F64) (v : Int) (free : Nat) : LineSweep :=
  sweepLines fb u.scale (toF64 v) u.lineLen.toNat u.cursor.toNat n 0 ⟨u.line, f64Zero, free⟩

section
variable (n : Nat) (fb : F64) (ext : Nat) (u : RvbUnit) (v : Int) (free : Nat)

theorem rvbStepWith_sample :
    (rvbStepWith n fb ext u v free).1 =
      quant ext
        (fadd (fmul (toF64 v) u.dry) (fmul (fdiv (u.sweep n fb v free).wet (toF64 (n : Int))) u.wet)) := rfl

variable {u}

theorem RvbUnit.sweep_wet (hlen : 0 < u.lineLen.toNat) :
    (u.sweep n fb v free).wet =
      (List.range n).foldl
        (fun wet i => fadd wet (fmul (u.line.read (i * u.lineLen.toNat + u.cursor.toNat)) u.scale))
        f64Zero := by
  rw [List.range_eq_range']
  exact sweepLines_wet _ _ _ _ _ _ _ hlen

end

/-- Settles O39: the cells and the sum are the line loop's. -/
theorem rvbTouchesOneCellPerLine : Obligations.RvbTouchesOneCellPerLine := by
  refine ⟨fun _ _ _ _ => rfl, ?_⟩
  intro n fb ext u v free hwf hcur len cur k r
  have hlen : 0 < len := Nat.zero_lt_of_lt hcur
  refine ⟨fun i hi => ?_, fun a ha => ?_, ?_, ?_, ?_, rfl⟩
  · intro back
    obtain ⟨free', hcell⟩ := sweepLines_read_cell fb k (toF64 v) (cur := cur) (count := n)
      (w := ⟨u.line, f64Zero, free⟩) hwf hlen (Nat.zero_le i) (by omega)
    obtain ⟨hnum, hnan⟩ := settle_fst back free'
    exact ⟨fun h => hcell.trans (hnum h), fun h => (congrArg f64IsNaN hcell).trans (hnan h)⟩
  · exact sweepLines_read_other _ _ _ _ _ _ _ _ fun i _ hi => ha i (by omega)
  · have hsample := rvbStepWith_sample n fb ext u v free
    rw [RvbUnit.sweep_wet n fb v free hlen] at hsample
    exact hsample
  · exact sweepLines_wf _ _ _ _ _ _ _ _ hwf
  · exact Nat.mod_eq_of_lt ((Nat.mod_lt _ hlen).trans u.lineLen.isLt)

/-! ### Wet off -/

/-- A zero of either sign is quantised as +0 is. -/
theorem quant_of_unpack_zero {x : F64} {s : Bool} (hx : f64Unpack x = .fin s 0) (ext : Nat) :
    quant ext x = quant ext f64Zero := by
  have hkey : f64Key x = f64Key f64Zero := by
    rw [f64Key_fin hx, f64Key_zero, signedMag_eq_zero.2 rfl]
  have htrunc : f64Trunc x = f64Trunc f64Zero := by
    simp only [f64Trunc, hx, f64Unpack_zero, Nat.zero_shiftRight, signedMag_eq_zero.2]
  have hnan : f64IsNaN x = false := f64IsNaN_of_finite (f64IsFinite_iff.2 ⟨s, 0, hx⟩)
  have hnan0 : f64IsNaN f64Zero = false := f64IsNaN_of_finite (f64IsFinite_iff.2 ⟨_, _, f64Unpack_zero⟩)
  have hle (y : F64) : fle x y = fle f64Zero y ∧ fle y x = fle y f64Zero := by
    unfold fle
    rw [hkey]
    exact ⟨rfl, rfl⟩
  rw [quant_of_not_nan hnan, quant_of_not_nan hnan0, (hle _).1, (hle _).2, htrunc]

/-- Adding a zero of either sign does not change what a value is quantised to: it can change no more than
the sign of a zero. -/
theorem quant_fadd_zero (x : F64) {z : F64} {t : Bool} (hz : f64Unpack z = .fin t 0) (ext : Nat) :
    quant ext (fadd x z) = quant ext x := by
  cases hx : f64Unpack x with
  | nan =>
    have hnan := f64IsNaN_iff.2 hx
    rw [quant_of_nan hnan, (arith_nan (y := z) (.inl hnan)).1, quant_of_nan f64IsNaN_f64NaN]
  | inf s => rw [(arith_fin_inf hz hx).2.1, eq_infOf_of_inf hx]
  | fin s m =>
    rcases Nat.eq_zero_or_pos m with rfl | hm
    · have hsum : f64Unpack (fadd x z) = .fin (s && t) 0 := by
        rw [fadd_fin hx hz, signedMag_eq_zero.2 rfl, signedMag_eq_zero.2 rfl, if_pos (Int.add_zero 0)]
        exact f64Unpack_pack _ (by decide)
      rw [quant_of_unpack_zero hsum, quant_of_unpack_zero hx]
    · rw [fadd_zero_fin hx (fun h0 => absurd h0 hm.ne') hz]

/-- Settles O40: a finite mean times +0 is a zero, and adding it leaves the quantised dry part. -/
theorem wetOffProperty : Obligations.WetOffProperty := by
  intro n fb ext u v free hwet hfin
  obtain ⟨s, m, hmean⟩ := f64IsFinite_iff.1 hfin
  rw [rvbStepWith_sample, hwet, fmul_comm _ f64Zero]
  exact quant_fadd_zero _ (f64Unpack_fmul_zero hmean) ext

end Sys2Proof.Machine
end

section
/-!
VOL and the seeker's duration: the two setters (R830, R930), and one VOL step at an integer gain (R810, R811).
Such a gain scales a sample exactly, and `quant` of an integer is its clamp to the range of a sample.
-/

namespace Sys2Proof.Machine

/-! ### The setters -/

theorem volumeOperand_eq (v : F64) :
    volumeOperand v =
      if f64IsNaN v = true ∨ flt v f64Zero = true then .error .badVolume
      else .ok (if v = f64Inf then Config.volMax else plusZero v) := by
  simp only [volumeOperand, ite_or, apply_ite Except.ok]

theorem durationOperand_eq (v : F64) :
    durationOperand v =
      if f64IsFinite v = false ∨ fle v f64Zero = true then .error .badDuration else .ok v := by
  simp only [durationOperand, ite_or]

/-- A setter of register `addr` behind an operand check: `write` is the state with the checked operand in
its registers. -/
def checkedSetter (operand : Except ErrCode F64) (write : F64 → State) (addr : BitVec 16) (s : State) :
    Result :=
  match operand with
  | .error e => raiseErr e s
  | .ok x => succeedReconfig addr x (write x)

section
variable {bad : Prop} [Decidable bad] {e : ErrCode} {write : F64 → State} {addr : BitVec 16} {s : State}

theorem checkedSetter_of_bad (he : e ≠ .ok) (x : F64) (h : bad) :
    checkedSetter (if bad then .error e else .ok x) write addr s = .next (s.rejected e) := by
  rw [if_pos h]
  exact raiseErr_eq he s

theorem checkedSetter_of_good (x : F64) (h : ¬ bad) :
    checkedSetter (if bad then .error e else .ok x) write addr s =
      .next ((write x).reconfigured addr x) := by
  rw [if_neg h]
  exact succeedReconfig_eq _ _ _

end

theorem exec_volSetVolume (v : F64) (s : State) :
    exec (.volSetVolume v) s =
      checkedSetter (volumeOperand v)
        (fun x => { s with vol := { s.vol with volume := x, gain := fdiv x f64Hundred } }) 0x0401 s := rfl

theorem exec_seekSetDuration (v : F64) (s : State) :
    exec (.seekSetDuration v) s =
      checkedSetter (durationOperand v) (fun x => { s with seek := { s.seek with totalMs := x } })
        0x0500 s := rfl

/-- Settles O41: each setter is `checkedSetter` of its operand check. -/
theorem volumeAndDurationSetters : Obligations.VolumeAndDurationSetters := by
  refine ⟨fun v => ⟨decodeCommand_toCommand (i := .volSetVolume v) rfl,
    decodeCommand_toCommand (i := .seekSetDuration v) rfl⟩, fun s v => ?_⟩
  rw [exec_volSetVolume, exec_seekSetDuration, volumeOperand_eq, durationOperand_eq]
  refine ⟨checkedSetter_of_bad (by decide) _, fun hnum hpos => checkedSetter_of_good _ ?_,
    checkedSetter_of_bad (by decide) _, fun hfin hpos => checkedSetter_of_good _ ?_⟩
  · simp [hnum, hpos]
  · simp [hfin, hpos]

/-! ### Integers through a product and through `quant` (R14, R17) -/

theorem signedMag_xor_mul (s t : Bool) (m n : Nat) :
    signedMag (s ^^ t) (m * n) = signedMag s m * signedMag t n := by
  cases s <;> cases t <;> simp [signedMag]

/-- Where the product of two integers is exact, so is the product of their conversions. It is worth the
product, and not always its conversion: −1 · 0 is −0. -/
theorem f64Rat_fmul_toF64 {i j : Int} (hi : i.natAbs ≤ 2 ^ 53) (hj : j.natAbs ≤ 2 ^ 53)
    (hij : (i * j).natAbs < 2 ^ 53) : f64Rat (fmul (toF64 i) (toF64 j)) = some ((i * j : Int) : ℚ) := by
  have hround (s : Bool) :
      f64Round s (i.natAbs * f64Quanta * (j.natAbs * f64Quanta)) f64Quanta =
        f64Round s (i.natAbs * j.natAbs * f64Quanta) 1 := by
    rw [← f64Round_mul_right s (i.natAbs * j.natAbs * f64Quanta) 1 f64Quanta_pos, Nat.one_mul]
    congr 1
    ring
  have hexact (s : Bool) :
      f64Unpack (f64Round s (i.natAbs * j.natAbs * f64Quanta) 1) =
        .fin s (i.natAbs * j.natAbs * f64Quanta) := by
    rw [f64Quanta_eq]
    exact f64Unpack_round_exact s (Int.natAbs_mul i j ▸ hij) (by decide)
  have hui := f64Unpack_toF64 hi
  have huj := f64Unpack_toF64 hj
  rw [← f64Quanta_eq] at hui huj
  rw [fmul_fin hui huj, hround, f64Rat_of_units (hexact _), signedMag_xor_mul, signedMag_natAbs,
    signedMag_natAbs]

/-- A number worth an integer is quantised to the clamp of the integer. -/
theorem quant_of_int {x : F64} {i : Int} (hx : f64Rat x = some (i : ℚ)) (d : BitDepth) :
    quant d.ext x = max (-(d.ext : Int)) (min ((d.ext : Int) - 1) i) := by
  have hbelow : (i : ℚ) ≤ -(d.ext : ℚ) ↔ i ≤ -(d.ext : Int) := by exact_mod_cast Iff.rfl
  have habove : (d.ext : ℚ) - 1 ≤ i ↔ (d.ext : Int) - 1 ≤ i := by exact_mod_cast Iff.rfl
  have hext := d.ext_bounds
  rw [quant_of_rat hx hext, Int.floor_intCast, Int.ceil_intCast, ite_self]
  simp only [hbelow, habove]
  split_ifs <;> omega

/-! ### The step -/

theorem f64Rat_one : f64Rat f64One = some 1 :=
  f64Rat_of_units (s := false) (n := 1) (f64Unpack_one.trans (by rw [Nat.one_mul]))

theorem volStep_of_unity {u : VolUnit} (h : feq u.gain f64One = true) (ext : Nat) (v : Int) :
    volStep ext u v = v := if_pos h

theorem volStep_of_scaling {u : VolUnit} (h : feq u.gain f64One = false) (ext : Nat) (v : Int) :
    volStep ext u v = quant ext (fmul (toF64 v) u.gain) :=
  if_neg (Bool.not_eq_true _ ▸ h)

/-- Multiplying by 1 does not change what a sample in range is quantised to. -/
theorem quant_fmul_one {d : BitDepth} {v : Int} (hv : d.inRange v) :
    quant d.ext (fmul (toF64 v) f64One) = v := by
  obtain ⟨m, hu, -⟩ := toF64_cases v
  rw [fmul_comm, fmul_one_fin hu, quant_toF64 hv]

/-- At a gain that is an integer other than 1 the step clamps the exact product. -/
theorem volStep_of_int_gain {d : BitDepth} {u : VolUnit} {v n : Int} (hv : d.inRange v)
    (hn : n.natAbs ≤ 2 ^ 53) (hvn : (v * n).natAbs < 2 ^ 53) (hgain : u.gain = toF64 n) (hne : n ≠ 1) :
    volStep d.ext u v = max (-(d.ext : Int)) (min ((d.ext : Int) - 1) (v * n)) := by
  have hscaling : feq u.gain f64One = false := by
    rw [hgain, ← Bool.not_eq_true, feq_iff_eq (f64Rat_toF64 hn) f64Rat_one]
    exact_mod_cast hne
  rw [volStep_of_scaling hscaling, hgain]
  exact quant_of_int (f64Rat_fmul_toF64 (BitDepth.natAbs_le_of_inRange hv) hn hvn) d

/-- Settles O42: the gains at volumes 100, 0 and 200 are 1, 0 and 2. -/
theorem volumeStep : Obligations.VolumeStep := by
  refine ⟨fun ext u v => ⟨fun h => volStep_of_unity h ext v, fun h => volStep_of_scaling h ext v⟩,
    fun d v hv => quant_fmul_one hv, fun d u v hv hgain => ⟨fun hvol => ?_, fun hvol => ?_, fun hvol => ?_⟩⟩
  · have hunity : feq u.gain f64One = true := by
      rw [hgain, hvol]
      decide +kernel
    exact volStep_of_unity hunity d.ext v
  · have hzero : u.gain = toF64 0 := by
      rw [hgain, hvol]
      decide +kernel
    have hext := d.ext_bounds
    rw [volStep_of_int_gain hv (by decide) (by simp) hzero (by decide)]
    omega
  · have htwo : u.gain = toF64 2 := by
      rw [hgain, hvol]
      decide +kernel
    have hbound : (v * 2).natAbs < 2 ^ 53 := by
      have hext : d.ext ≤ 2 ^ 31 := by cases d <;> decide
      obtain ⟨hlo, hhi⟩ := hv
      omega
    rw [volStep_of_int_gain hv (by decide) hbound htwo (by decide), Int.mul_comm]

end Sys2Proof.Machine
end

section
/-!
Resolving a time (R911): `resolve` is a clamp to [0, T] of the time itself, or of its distance from the end
where it is below 0, and neither is a NaN.
-/

namespace Sys2Proof.Machine

/-! ### Order on the number line -/

section
variable {x y z : F64}

theorem flt_iff_keys : flt x y = true ↔ ∃ a b, f64Key x = some a ∧ f64Key y = some b ∧ a < b := by
  unfold flt
  cases f64Key x <;> cases f64Key y <;> simp

theorem fle_iff_keys : fle x y = true ↔ ∃ a b, f64Key x = some a ∧ f64Key y = some b ∧ a ≤ b := by
  unfold fle
  cases f64Key x <;> cases f64Key y <;> simp

theorem not_fle_of_flt (h : flt x y = true) : fle y x = false := by
  obtain ⟨a, b, ha, hb, hab⟩ := flt_iff_keys.1 h
  rw [fle_eq_of_keys hb ha, decide_eq_false hab.not_ge]

theorem not_flt_of_fle (h : fle x y = true) : flt y x = false := by
  obtain ⟨a, b, ha, hb, hab⟩ := fle_iff_keys.1 h
  rw [flt_eq_of_keys hb ha, decide_eq_false hab.not_gt]

theorem flt_of_flt_of_fle (hxy : flt x y = true) (hyz : fle y z = true) : flt x z = true := by
  obtain ⟨a, b, ha, hb, hab⟩ := flt_iff_keys.1 hxy
  obtain ⟨b', c, hb', hc, hbc⟩ := fle_iff_keys.1 hyz
  obtain rfl : b = b' := Option.some.inj (hb.symm.trans hb')
  exact flt_iff_keys.2 ⟨a, c, ha, hc, hab.trans_le hbc⟩

theorem feq_of_fle_of_fle (hxy : fle x y = true) (hyx : fle y x = true) : feq x y = true := by
  obtain ⟨a, b, ha, hb, hab⟩ := fle_iff_keys.1 hxy
  rw [fle_eq_of_keys hb ha, decide_eq_true_eq] at hyx
  rw [feq_eq_of_keys ha hb, decide_eq_true (hab.antisymm hyx)]

end

/-! ### Which of its arguments `clampF` answers (R15) -/

section
variable {v lo hi : F64}

theorem clampF_of_le_lo (h : fle v lo = true) : clampF v lo hi = lo := if_pos h

theorem clampF_of_hi_le (hlt : flt lo hi = true) (hge : fle hi v = true) : clampF v lo hi = hi := by
  rw [clampF, not_fle_of_flt (flt_of_flt_of_fle hlt hge), hge]
  rfl

/-- A number above the lower bound and not above the upper one is kept, but for the sign of a zero. -/
theorem feq_clampF (hnum : f64IsNaN v = false) (hgt : flt lo v = true) (hle : fle v hi = true) :
    feq (clampF v lo hi) v = true := by
  rw [clampF, not_fle_of_flt hgt, if_neg Bool.false_ne_true]
  split
  next hge => exact feq_of_fle_of_fle hge hle
  next => exact feq_self hnum

end

/-! ### Sums that are no NaN (R14) -/

theorem f64IsNaN_round (neg : Bool) (num den : Nat) : f64IsNaN (f64Round neg num den) = false := by
  have hle := Nat.min_le_right (roundBinade num den * 2 ^ 52 + roundSig num den) (2047 * 2 ^ 52)
  rw [← Bool.not_eq_true, f64IsNaN_iff_low, f64Round_eq, f64Low_pack _ (by omega)]
  omega

/-- A finite number plus one that is no NaN is no NaN. -/
theorem f64IsNaN_fadd {x y : F64} (hx : f64IsFinite x = true) (hy : f64IsNaN y = false) :
    f64IsNaN (fadd x y) = false := by
  obtain ⟨s, m, hux⟩ := f64IsFinite_iff.1 hx
  cases huy : f64Unpack y with
  | nan =>
    rw [f64IsNaN_iff.2 huy] at hy
    cases hy
  | inf t => rw [(arith_fin_inf hux huy).1, f64IsNaN_infOf]
  | fin t n =>
    rw [fadd_fin hux huy]
    split
    · cases (s && t) <;> decide
    · exact f64IsNaN_round _ _ _

/-! ### `resolve` (R911) -/

section
variable {total ms : F64}

theorem resolve_of_neg (h : flt ms f64Zero = true) :
    resolve total ms = clampF (fadd total ms) f64Zero total := if_pos h

theorem resolve_of_not_neg (h : flt ms f64Zero = false) : resolve total ms = clampF ms f64Zero total :=
  if_neg (Bool.not_eq_true _ ▸ h)

/-- What `resolve` clamps: the time, or its distance from the end. -/
theorem resolve_eq_clampF (hfin : f64IsFinite total = true) (hms : f64IsNaN ms = false) :
    ∃ x, f64IsNaN x = false ∧ resolve total ms = clampF x f64Zero total := by
  cases hneg : flt ms f64Zero with
  | true => exact ⟨_, f64IsNaN_fadd hfin hms, resolve_of_neg hneg⟩
  | false => exact ⟨ms, hms, resolve_of_not_neg hneg⟩

end

/-- Settles O44: each clause is a case of the clamp, for the time where it is not below 0, else for its
distance from the end. -/
theorem resolveStaysInRange : Obligations.ResolveStaysInRange := by
  intro total ms hfin hpos hms r
  have hzero : f64IsNaN f64Zero = false := by decide
  have htotal : f64IsNaN total = false := f64IsNaN_of_finite hfin
  obtain ⟨s, m, hu⟩ := f64IsFinite_iff.1 hfin
  obtain ⟨q, hq⟩ := f64IsFinite_iff_rat.1 hfin
  have hrange : fle f64Zero r = true ∧ fle r total = true := by
    obtain ⟨x, hx, hr⟩ := resolve_eq_clampF hfin hms
    exact fle_of_clamped (clampedOperand_eq_ok.2 ⟨hx, hr⟩)
      ⟨hzero, htotal, by decide, fle_of_flt hpos, (fle_iff_le hq hq).2 le_rfl⟩
  have habove (h : fle total ms = true) : r = total := by
    have hneg : flt ms f64Zero = false := not_flt_of_fle (fle_of_flt (flt_of_flt_of_fle hpos h))
    exact (resolve_of_not_neg hneg).trans (clampF_of_hi_le hpos h)
  have hend (hneg : flt ms f64Zero = true) (h : fle (fadd total ms) f64Zero = true) : r = f64Zero :=
    (resolve_of_neg hneg).trans (clampF_of_le_lo h)
  refine ⟨hrange.1, hrange.2, ?_, ?_, habove, ?_, ?_, ?_, hend, ?_⟩
  · rintro rfl
    exact hend (by decide) (by rw [(arith_fin_inf hu (f64Unpack_infOf true)).1]; decide)
  · rintro rfl
    exact habove (compare_fin_inf hu false).2.1
  · rintro rfl
    exact (resolve_of_not_neg (by decide)).trans (clampF_of_le_lo (by decide))
  · rintro rfl
    exact (resolve_of_not_neg (by decide)).trans (clampF_of_le_lo (by decide))
  · intro hgt hle
    rw [show r = _ from resolve_of_not_neg (not_flt_of_fle (fle_of_flt hgt))]
    exact feq_clampF hms hgt hle
  · intro hneg hgt hle
    rw [show r = _ from resolve_of_neg hneg]
    exact feq_clampF (f64IsNaN_fadd hfin hms) hgt hle

end Sys2Proof.Machine
end

section
/-!
SEEK (R912, R931): the target position of a frame count, the four ends of the command, and that a seek
leaves the stream continuing at its target, so that a second one finds nothing to do.
-/

namespace Sys2Proof.Machine

/-! ### Targets (R912) -/

/-- A product of time and rate counts whole frames, and none below 0. -/
theorem seekFrames_of_rat {t : F64} {q : ℚ} (h : f64Rat t = some q) : seekFrames t = ⌊q⌋.toNat := by
  unfold seekFrames
  rw [if_pos (f64IsFinite_iff_rat.2 ⟨q, h⟩), f64Trunc_of_rat h]
  split
  next => rfl
  next hneg =>
    have hceil : ⌈q⌉ ≤ 0 := Int.ceil_le.2 (by exact_mod_cast (not_le.1 hneg).le)
    rw [Int.toNat_of_nonpos hceil, Int.toNat_of_nonpos ((Int.floor_le_ceil q).trans hceil)]

theorem seekFrames_of_not_finite {t : F64} (h : f64IsFinite t = false) : seekFrames t = 2 ^ 64 :=
  if_neg (Bool.not_eq_true _ ▸ h)

section
variable {chans frames : Nat}

theorem seekTarget_of_fits (h : frames * chans ≤ 2 ^ 64 - 1) : seekTarget chans frames = frames * chans :=
  if_neg (by omega)

theorem seekTarget_of_overflow (h : 2 ^ 64 - 1 < frames * chans) :
    seekTarget chans frames = (2 ^ 64 - 1) / chans * chans := if_pos h

/-- The saturated target is the largest multiple of CHANNELS below 2^64. -/
theorem le_seekTarget_of_overflow (h : 2 ^ 64 - 1 < frames * chans) {m : Nat} (hdvd : chans ∣ m)
    (hm : m ≤ 2 ^ 64 - 1) : m ≤ seekTarget chans frames := by
  rw [seekTarget_of_overflow h, ← Nat.div_mul_cancel hdvd]
  exact Nat.mul_le_mul_right _ (Nat.div_le_div_right hm)

end

/-- The target of a frame count as a position. -/
def Geometry.seekWord (g : Geometry) (frames : Nat) : Word := BitVec.ofNat 64 (seekTarget g.chans frames)

@[simp] theorem Geometry.toNat_seekWord (g : Geometry) (frames : Nat) :
    (g.seekWord frames).toNat = seekTarget g.chans frames := by
  rw [Geometry.seekWord, BitVec.toNat_ofNat]
  exact Nat.mod_eq_of_lt (Nat.lt_of_le_pred (by decide) (seekTarget_le _ _))

/-! ### `State.soughtTo` in the model's terms (R931) -/

/-- A seek continues where it is, or moves the unit to the target and posts one event. -/
theorem State.soughtTo_eq (s : State) (r : F64) (frames : Nat) :
    s.soughtTo r frames =
      if s.geo.seekWord frames = s.seek.continuesAt then { s with res0 := r }
      else
        { s with
          res0 := r
          seek := s.seek.movedTo (s.geo.seekWord frames)
          evq := s.evq ++ [.seek r (s.geo.seekWord frames)
            (BitVec.ofNat 64 ((s.geo.seekWord frames).toNat * s.geo.byteWidth))] } := by
  have htarget : (if frames * s.geo.chans ≤ 2 ^ 64 - 1 then frames * s.geo.chans
      else (2 ^ 64 - 1) / s.geo.chans * s.geo.chans) = seekTarget s.geo.chans frames := by
    split
    next h => exact (seekTarget_of_fits h).symm
    next h => exact (seekTarget_of_overflow (not_le.1 h)).symm
  have hstays : seekTarget s.geo.chans frames = (s.seek.pend.getD s.seek.pos).toNat ↔
      s.geo.seekWord frames = s.seek.continuesAt := by
    rw [← Geometry.toNat_seekWord, ← BitVec.toNat_inj, SeekUnit.continuesAt]
  unfold State.soughtTo
  simp only [htarget, hstays, SeekUnit.movedTo, Geometry.toNat_seekWord]
  split
  · rfl
  · split <;> rfl

/-- After the move the stream continues at the target. -/
@[simp] theorem SeekUnit.continuesAt_movedTo (u : SeekUnit) (target : Word) :
    (u.movedTo target).continuesAt = target := by
  rcases movedTo_cases u target with h | ⟨-, h⟩ <;> rw [h] <;> rfl

@[simp] theorem SeekUnit.totalMs_movedTo (u : SeekUnit) (target : Word) :
    (u.movedTo target).totalMs = u.totalMs := by
  rcases movedTo_cases u target with h | ⟨-, h⟩ <;> rw [h]

section
variable {s : State} {r : F64} {frames : Nat}

theorem State.soughtTo_of_stays (h : s.geo.seekWord frames = s.seek.continuesAt) :
    s.soughtTo r frames = { s with res0 := r } := by
  rw [State.soughtTo_eq, if_pos h]

/-- What every seek keeps, and where it leaves the stream. -/
theorem State.soughtTo_kept {t : State} (ht : (s.soughtTo r frames).completed = t) :
    t.phase = s.phase ∧ t.geo = s.geo ∧ t.seek.totalMs = s.seek.totalMs ∧ t.res0 = r ∧
      t.seek.continuesAt = s.geo.seekWord frames := by
  subst ht
  rw [State.soughtTo_eq]
  split
  next h => exact ⟨rfl, rfl, rfl, rfl, h.symm⟩
  next => exact ⟨rfl, rfl, SeekUnit.totalMs_movedTo _ _, rfl, SeekUnit.continuesAt_movedTo _ _⟩

/-- Frame counts with one target make one seek. -/
theorem State.soughtTo_congr {frames' : Nat}
    (h : seekTarget s.geo.chans frames = seekTarget s.geo.chans frames') :
    s.soughtTo r frames = s.soughtTo r frames' := by
  have hword : s.geo.seekWord frames = s.geo.seekWord frames' := congrArg (BitVec.ofNat 64) h
  rw [State.soughtTo_eq, State.soughtTo_eq, hword]

/-! ### The four ends of SEEK (R931) -/

theorem seekTo_soughtTo :
    seekTo r (s.geo.seekWord frames) { s with res0 := r } = .next (s.soughtTo r frames).completed := by
  rw [seekTo_eq, State.soughtTo_eq]
  dsimp only
  split <;> rfl

end

section
variable {s : State} {v : F64}

theorem exec_seekSeek_of_idle (hidle : s.phase = .idle) :
    exec (.seekSeek v) s = .next (s.rejected .notActive) := by
  simp only [exec, execSeekSeek, hidle]
  exact raiseErr_eq (by decide) s

theorem exec_seekSeek_of_nan (hact : s.phase = .active) (hnan : f64IsNaN v = true) :
    exec (.seekSeek v) s = .next (s.rejected .badParam) := by
  simp only [exec, execSeekSeek, hact, hnan, if_true]
  exact raiseErr_eq (by decide) s

theorem exec_seekSeek_of_noDuration (hact : s.phase = .active) (hnum : f64IsNaN v = false)
    (hunset : feq s.seek.totalMs f64Zero = true) :
    exec (.seekSeek v) s = .next ({ s with res0 := f64Zero } : State).completed := by
  simp only [exec, execSeekSeek, hact, hnum, hunset, Bool.false_eq_true, if_false, if_true]
  exact succeed_eq _

/-- The count of frames SEEK resolves its operand to (R911, R912). -/
def State.seekFramesOf (s : State) (v : F64) : Nat := seekFrames (seekTime s.geo.rateF (s.seekTimeOf v))

theorem exec_seekSeek_of_resolved (hact : s.phase = .active) (hnum : f64IsNaN v = false)
    (hset : feq s.seek.totalMs f64Zero = false) :
    exec (.seekSeek v) s = .next (s.soughtTo (s.seekTimeOf v) (s.seekFramesOf v)).completed := by
  have hexec : exec (.seekSeek v) s =
      seekTo (s.seekTimeOf v) (s.geo.seekWord (s.seekFramesOf v)) { s with res0 := s.seekTimeOf v } := by
    simp only [exec, execSeekSeek, hact, hnum, hset, Bool.false_eq_true, if_false]
    rfl
  rw [hexec, seekTo_soughtTo]

end

/-- Settles O43: the four ends, with the count of frames read off the product's worth. -/
theorem seekEffect : Obligations.SeekEffect := by
  refine ⟨fun v => decodeCommand_toCommand (i := .seekSeek v) rfl, fun s v =>
    ⟨exec_seekSeek_of_idle, exec_seekSeek_of_nan, exec_seekSeek_of_noDuration, ?_⟩⟩
  intro hact hnum hset r t q hq
  have hframes : s.seekFramesOf v = ⌊q⌋.toNat := seekFrames_of_rat hq
  rw [exec_seekSeek_of_resolved hact hnum hset, hframes]
  rfl

/-- Settles O45: beyond 64 bits every count of frames has the one saturated target. -/
theorem seekTargetArithmetic : Obligations.SeekTargetArithmetic := by
  refine ⟨fun chans frames _ => ⟨dvd_seekTarget _ _, seekTarget_le _ _, seekTarget_of_fits,
    fun h _ => le_seekTarget_of_overflow h⟩, ?_⟩
  intro s v hact hnum hset r hinf frames hframes
  have hchans : 0 < s.geo.chans := Nat.pos_of_ne_zero fun h0 => by simp [h0] at hframes
  have hcount : s.seekFramesOf v = 2 ^ 64 := seekFrames_of_not_finite hinf
  have hover : 2 ^ 64 - 1 < 2 ^ 64 * s.geo.chans := by omega
  rw [exec_seekSeek_of_resolved hact hnum hset, hcount]
  have htarget : seekTarget s.geo.chans (2 ^ 64) = seekTarget s.geo.chans frames :=
    (seekTarget_of_overflow hover).trans (seekTarget_of_overflow hframes).symm
  rw [State.soughtTo_congr htarget]
  rfl

/-! ### Seeking twice -/

/-- A second seek to where the first one went changes nothing. -/
theorem State.soughtTo_twice {s t : State} {r : F64} {frames : Nat}
    (ht : (s.soughtTo r frames).completed = t) : (t.soughtTo r frames).completed = t := by
  obtain ⟨-, hgeo, -, hres, hcontinues⟩ := State.soughtTo_kept ht
  have hstays : t.geo.seekWord frames = t.seek.continuesAt := by rw [hgeo, hcontinues]
  rw [State.soughtTo_of_stays hstays, ← hres, ← ht]
  rfl

/-- Time and count of frames depend on the duration and the rate alone. -/
theorem State.seekFramesOf_congr {s t : State} (hgeo : t.geo = s.geo)
    (htotal : t.seek.totalMs = s.seek.totalMs) (v : F64) :
    t.seekTimeOf v = s.seekTimeOf v ∧ t.seekFramesOf v = s.seekFramesOf v := by
  unfold State.seekFramesOf State.seekTimeOf
  rw [hgeo, htotal]
  exact ⟨rfl, rfl⟩

/-- After a seek to a resolved time the same seek stays where it is. -/
theorem exec_seekSeek_again {s : State} {v : F64} (hact : s.phase = .active) (hnum : f64IsNaN v = false)
    (hset : feq s.seek.totalMs f64Zero = false) :
    exec (.seekSeek v) (s.soughtTo (s.seekTimeOf v) (s.seekFramesOf v)).completed =
      .next (s.soughtTo (s.seekTimeOf v) (s.seekFramesOf v)).completed := by
  generalize ht : (s.soughtTo (s.seekTimeOf v) (s.seekFramesOf v)).completed = t
  obtain ⟨hphase, hgeo, htotal, -, -⟩ := State.soughtTo_kept ht
  obtain ⟨htime, hframes⟩ := State.seekFramesOf_congr hgeo htotal v
  rw [exec_seekSeek_of_resolved (hphase.trans hact) hnum (htotal ▸ hset), htime, hframes,
    State.soughtTo_twice ht]

/-- Settles O46: each of the four ends is followed by itself. -/
theorem seekTwiceIsIdempotent : Obligations.SeekTwiceIsIdempotent := by
  intro s t v h
  cases hphase : s.phase with
  | idle =>
    obtain rfl := Host.Outcome.next.inj ((exec_seekSeek_of_idle hphase).symm.trans h)
    exact exec_seekSeek_of_idle hphase
  | active =>
    cases hnan : f64IsNaN v with
    | true =>
      obtain rfl := Host.Outcome.next.inj ((exec_seekSeek_of_nan hphase hnan).symm.trans h)
      exact exec_seekSeek_of_nan hphase hnan
    | false =>
      cases hset : feq s.seek.totalMs f64Zero with
      | true =>
        obtain rfl := Host.Outcome.next.inj ((exec_seekSeek_of_noDuration hphase hnan hset).symm.trans h)
        exact exec_seekSeek_of_noDuration hphase hnan hset
      | false =>
        obtain rfl := Host.Outcome.next.inj ((exec_seekSeek_of_resolved hphase hnan hset).symm.trans h)
        exact exec_seekSeek_again hphase hnan hset

end Sys2Proof.Machine
end

section
/-!
Errors, completion and the host (60_exceptions.md): every command ends in a next state and is not disturbed
by the host's moves, proved together along the commands; the step as a command taken off the port and run;
what a rejected command leaves, and the register a RECONFIG event shows.
-/

namespace Sys2Proof.Machine

/-! ### The host's two moves at once (R1040, R109) -/

/-- The host sends `bytes` and drains `n` bytes of OUT. -/
def State.served (s : State) (bytes : List Byte) (n : Nat) : State := (s.hostSend bytes).hostDrain n

theorem State.served_zero (s : State) (bytes : List Byte) : s.served bytes 0 = s.hostSend bytes := rfl

theorem State.served_nil (s : State) (n : Nat) : s.served [] n = s.hostDrain n := by
  simp [State.served, State.hostSend]

/-- Meaning `m` completes on `s`, and the host's moves before it come to the same as after it. -/
def Undisturbed (bytes : List Byte) (n : Nat) (m : State → Result) (s : State) : Prop :=
  ∃ t, m s = .next t ∧ m (s.served bytes n) = .next (t.served bytes n)

section
variable (s : State) (bytes : List Byte) (n : Nat)

@[simp] theorem State.served_phase : (s.served bytes n).phase = s.phase := rfl
@[simp] theorem State.served_evq : (s.served bytes n).evq = s.evq := rfl
@[simp] theorem State.served_out : (s.served bytes n).out = s.out.drop n := rfl
@[simp] theorem State.served_geo : (s.served bytes n).geo = s.geo := rfl
@[simp] theorem State.served_bq : (s.served bytes n).bq = s.bq := rfl
@[simp] theorem State.served_seek : (s.served bytes n).seek = s.seek := rfl

/-- No register shows the port or OUT. -/
@[simp] theorem State.readReg_served (a : BitVec 16) : (s.served bytes n).readReg a = s.readReg a := rfl

/-! ### The operations on the state do not read the port or OUT -/

theorem teardown_served : (s.served bytes n).teardown = s.teardown.served bytes n := by
  unfold State.teardown
  simp only [State.served_phase]
  split <;> rfl

theorem softReset_served : (s.served bytes n).softReset = s.softReset.served bytes n := by
  simp [State.served, State.softReset, State.hostDrain, State.hostSend, State.reset]

theorem stageChain_served (ch : Nat) (v : Int) :
    stageChain ch v (s.served bytes n) = ((stageChain ch v s).1, (stageChain ch v s).2.served bytes n) := by
  rw [stageChain_eq, stageChain_eq]
  rfl

theorem processSamples_served (count j : Nat) (buf : List Byte) :
    processSamples count j buf (s.served bytes n) =
      ((processSamples count j buf s).1, (processSamples count j buf s).2.served bytes n) := by
  induction count generalizing j buf s with
  | zero => rfl
  | succ count ih => simp only [processSamples, State.served_geo, stageChain_served, ih]

theorem processFrames_served (e : List Byte) :
    processFrames e (s.served bytes n) =
      ((processFrames e s).1, (processFrames e s).2.served bytes n) :=
  processSamples_served s bytes n _ 0 e

theorem flushLeftover_served : flushLeftover (s.served bytes n) = (flushLeftover s).served bytes n := by
  simp only [flushLeftover, State.served_seek, State.served_geo, processFrames_served]
  split <;> rfl

end

section
variable {s : State} {bytes : List Byte} {n : Nat}

/-- `s` with the seeker after the tracker's work (R920). -/
def State.tracked (s : State) (u : SeekUnit) : State := { s with seek := u }

/-- What the tracker lets through is processed and emitted. -/
theorem pushChunk_eq_emit {payload e : List Byte} {u : SeekUnit}
    (htrack : track s.geo s.seek (s.seek.left ++ payload) = (e, u)) :
    pushChunk payload s = (processFrames e (s.tracked u)).2.emit (processFrames e (s.tracked u)).1 := by
  simp only [pushChunk, htrack]
  rfl

/-- Bytes are emitted behind those the host drains. -/
theorem emit_served (hn : n ≤ s.out.length) (emitted : List Byte) :
    (s.served bytes n).emit emitted = (s.emit emitted).served bytes n := by
  simp only [State.emit, State.served_out, ← List.drop_append_of_le_length hn]
  rfl

theorem pushChunk_served (hn : n ≤ s.out.length) (payload : List Byte) :
    pushChunk payload (s.served bytes n) = (pushChunk payload s).served bytes n := by
  rcases htrack : track s.geo s.seek (s.seek.left ++ payload) with ⟨e, u⟩
  have hseek : (s.served bytes n).tracked u = (s.tracked u).served bytes n := rfl
  have hout : (processFrames e (s.tracked u)).2.out = s.out := (processFrames_same _ _).out
  rw [pushChunk_eq_emit htrack, pushChunk_eq_emit (s := s.served bytes n) htrack, hseek,
    processFrames_served]
  exact emit_served (hout ▸ hn) _

/-! ### Every command completes undisturbed -/

theorem undisturbed_succeed {f : State → State} (hf : f (s.served bytes n) = (f s).served bytes n) :
    Undisturbed bytes n (fun u => succeed (f u)) s :=
  ⟨_, rfl, congrArg succeed hf⟩

theorem soughtTo_served (r : F64) (frames : Nat) :
    (s.served bytes n).soughtTo r frames = (s.soughtTo r frames).served bytes n := by
  rw [State.soughtTo_eq, State.soughtTo_eq, apply_ite (State.served · bytes n)]
  rfl

theorem seekSeek_undisturbed (v : F64) : Undisturbed bytes n (exec (.seekSeek v)) s := by
  cases hphase : s.phase with
  | idle => exact ⟨_, exec_seekSeek_of_idle hphase, exec_seekSeek_of_idle hphase⟩
  | active =>
    cases hnan : f64IsNaN v with
    | true => exact ⟨_, exec_seekSeek_of_nan hphase hnan, exec_seekSeek_of_nan hphase hnan⟩
    | false =>
      cases hset : feq s.seek.totalMs f64Zero with
      | true =>
        exact ⟨_, exec_seekSeek_of_noDuration hphase hnan hset,
          exec_seekSeek_of_noDuration hphase hnan hset⟩
      | false =>
        refine ⟨_, exec_seekSeek_of_resolved hphase hnan hset,
          (exec_seekSeek_of_resolved (s := s.served bytes n) hphase hnan hset).trans ?_⟩
        rw [soughtTo_served]
        rfl

/-- No meaning reads the port or OUT, and OUT is written by PUSH alone, which appends, and by RESET, which
empties it. -/
theorem exec_undisturbed (hn : n ≤ s.out.length) (i : Instr) : Undisturbed bytes n (exec i) s := by
  cases i with
  | ctlNop | ctlAckErr | bqEnable | bqDisable | cmpEnable | cmpDisable | rvbEnable | rvbDisable | volEnable
  | volDisable => exact ⟨_, rfl, rfl⟩
  | ctlCreate => exact undisturbed_succeed (congrArg State.instantiate (teardown_served s bytes n))
  | ctlDestroy => exact undisturbed_succeed (teardown_served s bytes n)
  | ctlReset => exact undisturbed_succeed (softReset_served s bytes n)
  | ctlPush payload =>
    simp only [Undisturbed, exec, execCtlPush, State.served_phase]
    split
    · exact ⟨_, rfl, rfl⟩
    · exact undisturbed_succeed (pushChunk_served hn payload)
  | ctlEnd =>
    simp only [Undisturbed, exec, execCtlEnd, State.served_phase]
    split
    · exact ⟨_, rfl, rfl⟩
    · exact undisturbed_succeed (f := fun u => (flushLeftover u).teardown)
        (by rw [flushLeftover_served, teardown_served])
  | ctlStreamError kind =>
    simp only [Undisturbed, exec, execCtlStreamError, State.served_phase]
    split
    · exact ⟨_, rfl, rfl⟩
    · cases kind with
      | prematureClose => exact undisturbed_succeed (teardown_served s bytes n)
      | ioFailure =>
        exact undisturbed_succeed (f := fun u => u.teardown.post (.error 1))
          (congrArg (State.post · (.error 1)) (teardown_served s bytes n))
  | ctlReadReg addr =>
    simp only [Undisturbed, exec, execCtlReadReg, State.readReg_served]
    split <;> exact ⟨_, rfl, rfl⟩
  | ctlPopEvent =>
    simp only [Undisturbed, exec, execCtlPopEvent, State.served_evq]
    split <;> exact ⟨_, rfl, rfl⟩
  | ctlSetBitdepth v | ctlSetEndian v | ctlSetChannels v =>
    simp only [Undisturbed, exec, execCtlSetBitdepth, execCtlSetEndian, execCtlSetChannels,
      State.served_phase]
    split
    · exact ⟨_, rfl, rfl⟩
    · split <;> exact ⟨_, rfl, rfl⟩
  | ctlSetRate v =>
    simp only [Undisturbed, exec, execCtlSetRate, State.served_bq]
    split
    · exact ⟨_, rfl, rfl⟩
    · split <;> exact ⟨_, rfl, rfl⟩
  | bqSetType v | bqSetFreq v | bqSetQ v | bqSetGain v =>
    simp only [Undisturbed, exec, execBqSetType, execBqSetFreq, execBqSetQ, execBqSetGain,
      State.served_geo, State.served_bq]
    split
    · exact ⟨_, rfl, rfl⟩
    · split <;> exact ⟨_, rfl, rfl⟩
  | cmpSetThreshold v | cmpSetRatio v | cmpSetAttack v | cmpSetRelease v | cmpSetMakeup v
  | cmpSetKnee v | rvbSetRoom v | rvbSetDamping v | rvbSetWet v | rvbSetDry v | volSetVolume v
  | seekSetDuration v =>
    simp only [Undisturbed, exec, execCmpSetThreshold, execCmpSetRatio, execCmpSetAttack,
      execCmpSetRelease, execCmpSetMakeup, execCmpSetKnee, execRvbSetRoom, execRvbSetDamping,
      execRvbSetWet, execRvbSetDry, execVolSetVolume, execSeekSetDuration]
    split <;> exact ⟨_, rfl, rfl⟩
  | seekSeek v => exact seekSeek_undisturbed v

end

/-- Settles O9: the first half of `exec_undisturbed`, with a host that does nothing. -/
theorem everyCommandCompletes : Obligations.EveryCommandCompletes := by
  intro i s
  obtain ⟨t, ht, -⟩ := exec_undisturbed (bytes := []) (Nat.zero_le s.out.length) i
  exact ⟨t, ht⟩

/-! ### A step as a command taken off the port and run (R101, R1040) -/

/-- What a step does with a whole command, its bytes consumed: rejects it as illegal or runs it. -/
def runCommand (c : Command) (s : State) : Result :=
  match decodeCommand c with
  | .error _ => raiseErr .illegalCommand s
  | .ok i => exec i s

theorem step_of_take {s : State} {c : Command} {rest : List Byte}
    (h : takeCommand s.port = some (c, rest)) : step s = runCommand c { s with port := rest } := by
  unfold step
  rw [h]
  rfl

theorem step_of_wait {s : State} (h : takeCommand s.port = none) :
    step s = .fault (if s.port = [] then .portEmpty else .commandCutShort) := by
  unfold step
  rw [h]
  cases s.port <;> rfl

theorem runCommand_undisturbed {s : State} {bytes : List Byte} {n : Nat} (hn : n ≤ s.out.length)
    (c : Command) : Undisturbed bytes n (runCommand c) s := by
  unfold runCommand
  cases decodeCommand c with
  | error e => exact ⟨_, rfl, rfl⟩
  | ok i => exact exec_undisturbed hn i

theorem step_of_whole {s : State} (h : takeCommand s.port ≠ none) : ∃ t, step s = .next t := by
  obtain ⟨⟨c, rest⟩, htake⟩ := Option.ne_none_iff_exists'.1 h
  obtain ⟨t, ht, -⟩ := runCommand_undisturbed (s := { s with port := rest }) (bytes := [])
    (Nat.zero_le _) c
  exact ⟨t, (step_of_take htake).trans ht⟩

/-- Settles O8: a whole command is run to its end, anything less is a fault. -/
theorem coreWaitsForWholeCommand : Obligations.CoreWaitsForWholeCommand := by
  intro s
  by_cases hwait : takeCommand s.port = none
  · rw [step_of_wait hwait]
    cases hport : s.port with
    | nil => simp [takeCommand_of_short]
    | cons b bs => simp [← hport, hwait]
  · have hport : s.port ≠ [] := fun hempty => hwait (hempty ▸ rfl)
    obtain ⟨t, ht⟩ := step_of_whole hwait
    simp [ht, hwait, hport]

/-! ### The host's moves (R1040) -/

/-- Bytes sent behind a whole command stay behind it. -/
theorem takeCommand_append {port rest : List Byte} {c : Command}
    (h : takeCommand port = some (c, rest)) (bytes : List Byte) :
    takeCommand (port ++ bytes) = some (c, rest ++ bytes) := by
  rcases Nat.lt_or_ge port.length 12 with hlen | hlen
  · rw [takeCommand_of_short hlen] at h
    cases h
  rw [takeCommand_eq hlen rfl rfl rfl] at h
  split at h
  · cases h
  next hwhole =>
    cases h
    have htake4 : (port ++ bytes).take 4 = port.take 4 := List.take_append_of_le_length (by omega)
    have htake8 : ((port ++ bytes).drop 4).take 8 = (port.drop 4).take 8 := by
      rw [List.drop_append_of_le_length (by omega), List.take_append_of_le_length (by simp; omega)]
    rw [takeCommand_eq (by simp; omega) (congrArg (fun l => BitVec.ofNat 32 (leNat l)) htake4)
      (congrArg (fun l => BitVec.ofNat 64 (leNat l)) htake8) rfl, if_neg (by simp; omega),
      List.drop_append_of_le_length hlen, List.take_append_of_le_length (by simp; omega),
      List.drop_append_of_le_length (by omega)]

/-- A step commutes with the host's moves. -/
theorem step_served {s t : State} (h : step s = .next t) (bytes : List Byte) {n : Nat}
    (hn : n ≤ s.out.length) : step (s.served bytes n) = .next (t.served bytes n) := by
  obtain ⟨c, rest, htake, -⟩ := step_cases h
  obtain ⟨u, hu, hserved⟩ := runCommand_undisturbed (s := { s with port := rest }) (bytes := bytes) hn c
  obtain rfl := Host.Outcome.next.inj (hu.symm.trans ((step_of_take htake).symm.trans h))
  exact (step_of_take (takeCommand_append htake bytes)).trans hserved

/-- Settles O58: sending and draining are the host's two moves, each without the other. -/
theorem hostMovesCommute : Obligations.HostMovesCommute := by
  refine ⟨fun s t bytes h => ?_, fun s t n hn h => ?_⟩
  · exact step_served h bytes (Nat.zero_le _)
  · rw [← State.served_nil, ← State.served_nil]
    exact step_served h [] hn

/-! ### Rejected commands (R1002) -/

/-- Settles O14: an illegal command and a decoded one that fails both end in `State.rejected`. -/
theorem rejectedCommandHasNoEffect : Obligations.RejectedCommandHasNoEffect := by
  intro s t c rest htake hstep herr
  obtain ⟨c', rest', htake', h⟩ := step_cases hstep
  obtain ⟨rfl, rfl⟩ := Prod.mk.inj (Option.some.inj (htake.symm.trans htake'))
  obtain ⟨e, -, rfl⟩ | ⟨i, -, heff⟩ := h
  · rfl
  · obtain ⟨e, -, -, rfl⟩ | hok := heff.rejected_or_ok
    · rfl
    · exact absurd hok herr

/-! ### RECONFIG events (R1011) -/

/-- After an accepted setter the register it names reads the value its event shows. -/
theorem Setting.readReg_reconfigured {s u : State} {i : Instr} {v : Word} {a : BitVec 16}
    (h : Setting s i u v) (ha : setterAddress i = some a) : (u.reconfigured a v).readReg a = some v := by
  cases h with
  | bitdepth _ hv =>
    cases ha
    rw [bitdepthOperand_eq_ok.1 hv]
    rfl
  | endian _ hv =>
    cases ha
    rw [endianOperand_eq_ok.1 hv]
    rfl
  | bqType hv =>
    cases ha
    rw [filterTypeOperand_eq_ok hv]
    rfl
  | _ =>
    cases ha
    rfl

/-- Settles O17: a setter that is not rejected is a `Setting`; of the other commands STREAM_ERROR and SEEK
post, each an event of its own kind. -/
theorem reconfigEventMatchesRegister : Obligations.ReconfigEventMatchesRegister := by
  intro i s t h
  cases exec_effect h with
  | rejected hi he => exact ⟨fun _ _ hok => absurd hok he, fun _ _ _ => .inl rfl⟩
  | accepted haddr hset =>
    refine ⟨fun a ha _ => ?_, fun hnone => absurd_setter haddr hnone rfl⟩
    obtain rfl := Option.some.inj (haddr.symm.trans ha)
    exact ⟨_, hset.readReg_reconfigured haddr, congrArg (· ++ [_]) hset.evq_eq⟩
  | reset => exact ⟨nofun, fun _ hne => absurd rfl hne⟩
  | popEmpty | pop => exact ⟨nofun, fun _ _ hne => absurd rfl hne⟩
  | ioFailure => exact ⟨nofun, fun _ _ _ => .inr ⟨.error 1, nofun, by simp⟩⟩
  | seekMoves => exact ⟨nofun, fun _ _ _ => .inr ⟨.seek _ _ _, nofun, rfl⟩⟩
  | _ => exact ⟨nofun, fun _ _ _ => .inl (by simp)⟩

end Sys2Proof.Machine
end

section
/-!
Reset and the split of a stream (70_reset_and_hazards.md): every reset value of R1100, and that two PUSHes
come to the same as one PUSH of both payloads (R1111), from the tracker's work on a buffer that comes in two
parts and the sample loop's work on two runs of whole frames.
-/

namespace Sys2Proof.Machine

/-! ### The whole frames of a buffer (R920) -/

/-- How many whole frames a buffer holds. -/
def Geometry.framesIn (g : Geometry) (buf : List Byte) : Nat := buf.length / g.frameBytes

/-- The bytes of a buffer's whole frames. -/
def Geometry.wholeOf (g : Geometry) (buf : List Byte) : List Byte :=
  buf.take (g.framesIn buf * g.frameBytes)

/-- The bytes behind a buffer's whole frames. -/
def Geometry.restOf (g : Geometry) (buf : List Byte) : List Byte :=
  buf.drop (g.framesIn buf * g.frameBytes)

section
variable (g : Geometry) (buf : List Byte)

theorem Geometry.wholeOf_append_restOf : g.wholeOf buf ++ g.restOf buf = buf := List.take_append_drop _ _

theorem Geometry.append_eq_wholeOf_append (next : List Byte) :
    buf ++ next = g.wholeOf buf ++ (g.restOf buf ++ next) := by
  rw [← List.append_assoc, g.wholeOf_append_restOf]

theorem Geometry.length_wholeOf : (g.wholeOf buf).length = g.framesIn buf * g.frameBytes :=
  List.length_take_of_le (Nat.div_mul_le_self _ _)

end

section
variable {g : Geometry} (hframe : 0 < g.frameBytes) (buf next : List Byte)
include hframe

/-- What comes behind a buffer is framed from the buffer's partial frame on. -/
theorem Geometry.framesIn_append :
    g.framesIn (buf ++ next) = g.framesIn buf + g.framesIn (g.restOf buf ++ next) := by
  have hlen : (buf ++ next).length =
      (g.restOf buf ++ next).length + g.frameBytes * g.framesIn buf := by
    rw [g.append_eq_wholeOf_append buf next, List.length_append, g.length_wholeOf]
    ring
  rw [Geometry.framesIn, hlen, Nat.add_mul_div_left _ _ hframe, Nat.add_comm]
  rfl

theorem Geometry.wholeOf_append :
    g.wholeOf (buf ++ next) = g.wholeOf buf ++ g.wholeOf (g.restOf buf ++ next) := by
  conv_lhs => rw [Geometry.wholeOf, Geometry.framesIn_append hframe, Nat.add_mul,
    ← g.length_wholeOf buf, g.append_eq_wholeOf_append buf next, List.take_length_add_append]
  rfl

theorem Geometry.restOf_append :
    g.restOf (buf ++ next) = g.restOf (g.restOf buf ++ next) := by
  conv_lhs => rw [Geometry.restOf, Geometry.framesIn_append hframe, Nat.add_mul,
    ← g.length_wholeOf buf, g.append_eq_wholeOf_append buf next, List.drop_length_add_append]
  rfl

end

/-! ### The tracker on a buffer in two parts (R920, R921) -/

/-- Where the tracker stands after a buffer's whole frames, on the unbounded integers (R923). -/
def SeekUnit.stopAfter (u : SeekUnit) (g : Geometry) (buf : List Byte) : Nat :=
  u.pos.toNat + g.framesIn buf * g.chans

/-- The seeker moved past the whole frames of a buffer, the partial frame kept. -/
def SeekUnit.movedPast (u : SeekUnit) (g : Geometry) (buf : List Byte) : SeekUnit :=
  { u with pos := BitVec.ofNat 64 (u.stopAfter g buf), left := g.restOf buf }

@[simp] theorem SeekUnit.movedPast_left (u : SeekUnit) (g : Geometry) (buf : List Byte) :
    (u.movedPast g buf).left = g.restOf buf := rfl

@[simp] theorem SeekUnit.movedPast_pend (u : SeekUnit) (g : Geometry) (buf : List Byte) :
    (u.movedPast g buf).pend = u.pend := rfl

/-! ### The tracker's three outcomes in these terms -/

section
variable {g : Geometry} {u : SeekUnit}

theorem track_streaming (hpend : u.pend = none) (buf : List Byte) :
    track g u buf = (g.wholeOf buf, u.movedPast g buf) := track_of_noPend hpend

theorem track_skipping {p : Word} (hpend : u.pend = some p) {buf : List Byte}
    (h : u.stopAfter g buf ≤ p.toNat) : track g u buf = ([], u.movedPast g buf) :=
  track_of_pend_ahead hpend h

theorem track_reaching {p : Word} (hpend : u.pend = some p) {buf : List Byte}
    (h : p.toNat < u.stopAfter g buf) :
    track g u buf =
      ((g.wholeOf buf).drop ((p.toNat - u.pos.toNat) * g.byteWidth),
        { u.movedPast g buf with pend := none }) :=
  track_of_pend_inside hpend h

end

section
variable {g : Geometry} {u : SeekUnit} (buf next : List Byte)

/-- The samples the tracker skips are whole frames, so what it lets through is whole frames. -/
theorem frameBytes_dvd_track (hdvd : g.chans ∣ u.pos.toNat)
    (hpend : ∀ p, u.pend = some p → g.chans ∣ p.toNat) :
    g.frameBytes ∣ (track g u buf).1.length := by
  have hwhole : g.frameBytes ∣ (g.wholeOf buf).length := by
    rw [g.length_wholeOf]
    exact Nat.dvd_mul_left _ _
  rcases track_cases g u buf with ⟨-, h⟩ | ⟨-, -, -, h⟩ | ⟨p, hp, -, h⟩ <;> rw [h]
  · exact hwhole
  · exact dvd_zero _
  · have hskip : g.frameBytes ∣ (p.toNat - u.pos.toNat) * g.byteWidth := by
      rw [Geometry.frameBytes, Nat.mul_comm g.byteWidth]
      exact Nat.mul_dvd_mul_right (Nat.dvd_sub (hpend p hp) hdvd) _
    rw [List.length_drop]
    exact Nat.dvd_sub hwhole hskip

/-- A sample moved past is BYTE_WIDTH bytes of whole frames. -/
theorem length_wholeOf_eq_stopAfter_sub :
    (g.wholeOf buf).length = (u.stopAfter g buf - u.pos.toNat) * g.byteWidth := by
  rw [g.length_wholeOf, SeekUnit.stopAfter, Nat.add_sub_cancel_left, Geometry.frameBytes]
  ring

/-- A position that is not beyond some 64-bit position has not wrapped. -/
theorem SeekUnit.toNat_movedPast_pos {p : Word} (h : u.stopAfter g buf ≤ p.toNat) :
    (u.movedPast g buf).pos.toNat = u.stopAfter g buf := by
  have := p.isLt
  exact Nat.mod_eq_of_lt (by omega)

variable (hframe : 0 < g.frameBytes)
include hframe

theorem SeekUnit.stopAfter_append :
    u.stopAfter g (buf ++ next) = u.stopAfter g buf + g.framesIn (g.restOf buf ++ next) * g.chans := by
  rw [SeekUnit.stopAfter, Geometry.framesIn_append hframe, Nat.add_mul, ← Nat.add_assoc]
  rfl

/-- Positions wrap the same in one move and in two (R923). -/
theorem SeekUnit.movedPast_append :
    u.movedPast g (buf ++ next) = (u.movedPast g buf).movedPast g (g.restOf buf ++ next) := by
  have hpos : BitVec.ofNat 64 (u.stopAfter g (buf ++ next)) =
      BitVec.ofNat 64 ((u.movedPast g buf).stopAfter g (g.restOf buf ++ next)) := by
    show _ = BitVec.ofNat 64
      ((BitVec.ofNat 64 (u.stopAfter g buf)).toNat + g.framesIn (g.restOf buf ++ next) * g.chans)
    rw [SeekUnit.stopAfter_append buf next hframe, BitVec.ofNat_add, BitVec.ofNat_add,
      BitVec.ofNat_toNat, BitVec.setWidth_eq]
  rw [SeekUnit.movedPast, hpos, Geometry.restOf_append hframe]
  rfl

/-- The leftover of the first part goes before the second; then the two parts let through what the whole
buffer does, and leave the same seeker. -/
theorem track_append :
    track g u (buf ++ next) =
      let a := track g u buf
      let b := track g a.2 (a.2.left ++ next)
      (a.1 ++ b.1, b.2) := by
  have hwhole := Geometry.wholeOf_append hframe buf next
  have hmoved := SeekUnit.movedPast_append (u := u) buf next hframe
  have hstop := SeekUnit.stopAfter_append (u := u) buf next hframe
  have hlen := length_wholeOf_eq_stopAfter_sub (g := g) (u := u) buf
  cases hp : u.pend with
  | none =>
    have hmid : (u.movedPast g buf).pend = none := (u.movedPast_pend g buf).trans hp
    simp only [track_streaming hp, track_streaming hmid, SeekUnit.movedPast_left, hwhole, hmoved]
  | some p =>
    rcases Nat.lt_or_ge p.toNat (u.stopAfter g buf) with hin | hahead
    · -- the target is inside the first part: the second goes through whole
      have hskip : (p.toNat - u.pos.toNat) * g.byteWidth ≤ (g.wholeOf buf).length := by
        rw [hlen]
        exact Nat.mul_le_mul_right _ (Nat.sub_le_sub_right hin.le _)
      rw [track_reaching hp hin, track_reaching hp (by omega), hwhole, hmoved,
        List.drop_append_of_le_length hskip]
      rfl
    · -- the first part is skipped whole, and the second goes on where it stopped
      have hmid : (u.movedPast g buf).pend = some p := (u.movedPast_pend g buf).trans hp
      have hpos := SeekUnit.toNat_movedPast_pos buf hahead
      have hstop' : (u.movedPast g buf).stopAfter g (g.restOf buf ++ next) =
          u.stopAfter g (buf ++ next) := by
        rw [hstop, ← hpos]
        rfl
      simp only [track_skipping hp hahead, SeekUnit.movedPast_left, List.nil_append]
      rcases Nat.lt_or_ge p.toNat (u.stopAfter g (buf ++ next)) with hreach | hshort
      · have hskip : (p.toNat - u.pos.toNat) * g.byteWidth =
            (g.wholeOf buf).length + (p.toNat - (u.movedPast g buf).pos.toNat) * g.byteWidth := by
          have hle : u.pos.toNat ≤ u.stopAfter g buf := Nat.le_add_right _ _
          rw [hlen, hpos, ← Nat.add_mul]
          congr 1
          omega
        rw [track_reaching hp hreach, track_reaching hmid (hreach.trans_eq hstop'.symm), hwhole, hmoved,
          hskip, List.drop_length_add_append]
      · rw [track_skipping hp hshort, track_skipping hmid (hstop'.trans_le hshort), hmoved]

end

/-! ### The sample loop on two runs of whole frames (R460) -/

/-- The loop reads of its start index the channel alone. -/
theorem processSamples_congr_channel {j k : Nat} {s : State} (h : j % s.geo.chans = k % s.geo.chans)
    (count : Nat) (buf : List Byte) : processSamples count j buf s = processSamples count k buf s := by
  induction count generalizing j k buf s with
  | zero => rfl
  | succ count ih =>
    have hnext (t : State) (ht : t.geo = s.geo) : (j + 1) % t.geo.chans = (k + 1) % t.geo.chans := by
      rw [ht]
      exact Nat.ModEq.add_right 1 h
    simp only [processSamples, h, ih (hnext _ (stageChain_same _ _ _).geo)]

/-- From any frame's first sample on, a run is as from the first frame's. -/
theorem processSamples_eq_processFrames {j : Nat} {s : State} (h : s.geo.chans ∣ j) (e : List Byte) :
    processSamples (e.length / s.geo.byteWidth) j e s = processFrames e s :=
  processSamples_congr_channel ((Nat.mod_eq_zero_of_dvd h).trans (Nat.zero_mod _).symm) _ _

theorem processFrames_append {s : State} {e : List Byte} (h : s.geo.frameBytes ∣ e.length)
    (next : List Byte) :
    processFrames (e ++ next) s =
      let a := processFrames e s
      let b := processFrames next a.2
      (a.1 ++ b.1, b.2) := by
  obtain ⟨f, hf⟩ := h
  let samples := s.geo.chans * f
  have hlen : e.length = samples * s.geo.byteWidth := by
    rw [hf, Geometry.frameBytes]
    ring
  have hfirst : e.length / s.geo.byteWidth = samples := by
    rw [hlen, Nat.mul_div_cancel _ (one_le_byteWidth s.geo)]
  have hcount : (e ++ next).length / s.geo.byteWidth = samples + next.length / s.geo.byteWidth := by
    rw [List.length_append, hlen, Nat.mul_comm, Nat.mul_add_div (one_le_byteWidth s.geo)]
  have hgeo := (processFrames_same e s).geo
  have hnext := processSamples_eq_processFrames (s := (processFrames e s).2) (j := 0 + samples)
    (by rw [hgeo, Nat.zero_add]; exact Nat.dvd_mul_right _ _) next
  have hsplit := processSamples_add samples (next.length / s.geo.byteWidth) 0 (e ++ next) s
    (by rw [← hlen, List.length_append]; exact Nat.le_add_right _ _)
  rw [← hlen, List.take_left, List.drop_left] at hsplit
  rw [hgeo] at hnext
  simp only [← hnext]
  rw [processFrames, hcount, hsplit, processFrames, hfirst]

/-! ### Fields no stage reads or writes -/

/-- `s` with the fields PUSH writes beside the running state. -/
def State.withStream (s : State) (code : ErrCode) (out : List Byte) (u : SeekUnit) : State :=
  { s with lastErr := code, out := out, seek := u }

section
variable (s : State) (code : ErrCode) (out : List Byte) (u : SeekUnit)

@[simp] theorem State.withStream_geo : (s.withStream code out u).geo = s.geo := rfl
@[simp] theorem State.withStream_seek : (s.withStream code out u).seek = u := rfl
@[simp] theorem State.withStream_out : (s.withStream code out u).out = out := rfl

theorem stageChain_withStream (ch : Nat) (v : Int) :
    stageChain ch v (s.withStream code out u) =
      ((stageChain ch v s).1, (stageChain ch v s).2.withStream code out u) := by
  rw [stageChain_eq, stageChain_eq]
  rfl

theorem processSamples_withStream (count j : Nat) (buf : List Byte) :
    processSamples count j buf (s.withStream code out u) =
      ((processSamples count j buf s).1, (processSamples count j buf s).2.withStream code out u) := by
  induction count generalizing j buf s with
  | zero => rfl
  | succ count ih => simp only [processSamples, State.withStream_geo, stageChain_withStream, ih]

theorem processFrames_withStream (e : List Byte) :
    processFrames e (s.withStream code out u) =
      ((processFrames e s).1, (processFrames e s).2.withStream code out u) :=
  processSamples_withStream s code out u _ 0 e

end

/-! ### PUSH in two parts (R1111) -/

/-- The state a PUSH in ACTIVE ends in. -/
def State.pushed (s : State) (payload : List Byte) : State :=
  let t := track s.geo s.seek (s.seek.left ++ payload)
  let r := processFrames t.1 s
  r.2.withStream .ok (s.out ++ r.1) t.2

section
variable {s : State}

theorem exec_ctlPush_eq_pushed (hact : s.phase = .active) (payload : List Byte) :
    exec (.ctlPush payload) s = .next (s.pushed payload) := by
  rw [exec_ctlPush_of_track hact rfl, processFrames_with_seek]
  rfl

@[simp] theorem State.pushed_phase (payload : List Byte) : (s.pushed payload).phase = s.phase :=
  (processFrames_same _ _).phase

/-- A PUSH of two payloads is two PUSHes: the tracker carries the partial frame, the units carry their
running state. -/
theorem State.pushed_append (hframe : 0 < s.geo.frameBytes) (hdvd : s.geo.chans ∣ s.seek.pos.toNat)
    (hpend : ∀ p, s.seek.pend = some p → s.geo.chans ∣ p.toNat) (payload next : List Byte) :
    s.pushed (payload ++ next) = (s.pushed payload).pushed next := by
  have hwhole := frameBytes_dvd_track (s.seek.left ++ payload) hdvd hpend
  have hgeo := (processFrames_same (track s.geo s.seek (s.seek.left ++ payload)).1 s).geo
  have htrack := track_append (u := s.seek) (s.seek.left ++ payload) next hframe
  rw [List.append_assoc] at htrack
  simp only [State.pushed, htrack, processFrames_append hwhole, processFrames_withStream,
    State.withStream_geo, State.withStream_seek, State.withStream_out, hgeo, List.append_assoc]
  rfl

end

/-- Settles O50: with the position and a pending target at multiples of CHANNELS, every PUSH processes whole
frames, so that `State.pushed_append` holds at any byte. -/
theorem pushSplitInvariance : Obligations.PushSplitInvariance := by
  intro s s1 s2 p q hs hact hdvd hp hq
  obtain ⟨-, hchans, -, hpend⟩ := hs
  have hframe : 0 < s.geo.frameBytes := hchans.trans (chans_le_frameBytes s.geo)
  obtain rfl := Host.Outcome.next.inj ((exec_ctlPush_eq_pushed hact p).symm.trans hp)
  obtain rfl := Host.Outcome.next.inj
    ((exec_ctlPush_eq_pushed (s.pushed_phase p |>.trans hact) q).symm.trans hq)
  rw [exec_ctlPush_eq_pushed hact, State.pushed_append hframe hdvd fun w hw => (hpend w hw).2]

/-! ### Reset (R1100) -/

/-- Settles O11: group by group of R1100's rows, each read off `State.reset`; N_LINES is read as it is where
it fits a register, and CTL.RESET's next state is `softReset`'s. -/
theorem resetValues : Obligations.ResetValues := by
  refine ⟨⟨rfl, rfl, rfl, rfl, rfl, rfl, rfl, rfl, rfl, rfl, rfl⟩,
    ⟨rfl, rfl, rfl, rfl, rfl, rfl, rfl, rfl⟩, ⟨rfl, rfl, rfl, rfl, rfl, rfl, rfl, fun _ => rfl⟩,
    ⟨rfl, rfl, rfl, rfl, rfl, rfl, rfl, rfl, rfl, rfl, rfl⟩,
    ⟨rfl, rfl, rfl, rfl, rfl, rfl, rfl, rfl, ⟨BitVec.ofNat 64 Config.nLines, rfl, Nat.mod_eq_of_lt⟩,
      rfl⟩,
    ⟨rfl, rfl, rfl, rfl, rfl, rfl, rfl, rfl, rfl⟩, fun u => ⟨_, softReset.2 u, rfl⟩⟩

end Sys2Proof.Machine
end
